-- ==== Sys2Proof/Word.lean ====
section
/-! DEFINITION. The character of every line and the index types of the collator's fixed tables. -/
namespace Sys2Proof

/-- One character of a line, and one cell of the map store (R5, R140). -/
abbrev Byte := BitVec 8

/-- A head serial or a map revision, four characters on a line (R14, R152). -/
abbrev Word32 := BitVec 32

/-- A head port A, B, C or D, with the index a frame carries (Chapter 8). -/
abbrev PortId := Fin 4

/-- A wafer slot, 0 to 11 (R18). -/
abbrev SlotId := Fin 12

/-- A lot entry, 0 to 3 (R131). -/
abbrev LotId := Fin 4

/-- A site number, the probe position of a head (Table 3-1). -/
abbrev SiteId := Fin 16

/-- A bin code, 0 to 63 (section 1.1). -/
abbrev Bin := Fin 64

/-- An alarm source by its code: YIELD 0, RUN 1, BIN0 to BIN7 2 to 9, SITE0 to SITE15 10 to 25
(Table 6-2). -/
abbrev Source := Fin 26

end Sys2Proof
end

