-- ==== Sys2Proof/Syntax.lean ====
section
/-! DEFINITION. The commands the collator takes: one constructor for each row of spec/opcode_table.json. -/
namespace Sys2Proof

/-- A character as a receiver assembles it: its value, its mark and its stop bit (Table 8-1). -/
structure RxChar where
  value : Byte
  mark : Bool
  stopHigh : Bool
deriving DecidableEq, Repr

/-- One of the three lamps of the stack (section 6.6). -/
inductive Lamp where
  | green
  | amber
  | red
deriving DecidableEq, Repr

/-- The levels of the strap pins HRATE1 and HRATE0, sampled at a reset (Table I-3, R166). -/
structure Straps where
  hrate1 : Bool
  hrate0 : Bool
deriving DecidableEq, Repr

/-- Which moment of a reply's transmission a HOST_REPLY_SEND is (R167): its beginning, which reads
RDY-in, its last character, or both in one step (log 5). -/
inductive ReplySend where
  | started (rdyIn : Bool)
  | finished
  | whole (rdyIn : Bool)
deriving DecidableEq, Repr

/-- The commands. A command that takes a frame finds the frame at the front of its intake queue
(R148, R167; log 1), so its operands are that frame's payload. -/
inductive Instr where
  | headFrameReceived (p : PortId) (cs : List RxChar)
  | shortBreak (p : PortId)
  | longBreak (p : PortId)
  | hostFrameReceived (cs : List RxChar)
  | hostShortBreak
  | announce (p : PortId)
  | touch (p : PortId)
  | site (p : PortId)
  | lift (p : PortId)
  | unload (p : PortId)
  | beat (p : PortId)
  | nonHeadFrame (p : PortId)
  | silenceExpiry (p : PortId)
  | headFrameSend (p : PortId) (rdyIn : Bool)
  | hostReplySend (e : ReplySend)
  | pageDone (stored : Bool)
  | lampPhaseExpiry (l : Lamp)
  | powerUp (straps : Straps)
  | pinReset (straps : Straps)
  | queryPart
  | status
  | headSet
  | headStatus
  | headDrop
  | waferOpen
  | waferClose
  | waferAbandon
  | waferResume
  | waferDiscard
  | waferRead
  | mapRead
  | alarmsRead
  | limitsStage
  | limitsRead
  | holdRelease
  | waferBins
  | binsSet
  | binsRead
  | lampSet
  | alertSet
  | lotRead
  | lotEnd
  | noticeFetch
  | pageRead
  | pageWrite
  | pageErase
  | partReset
  | unknownKind
  | framingError (p : PortId) (c : RxChar)
  | breakEnd (p : PortId)
  | hostFramingError (c : RxChar)
  | hostBreakEnd
  | frameFinished (p : PortId) (rdyIn : Bool)
deriving DecidableEq, Repr

end Sys2Proof
end

