-- ==== Sys2Proof/Decode.lean ====
section
/-! DEFINITION. The commands that a word of spec/opcode_table.json's bits spells: none, since no row gives bits. -/
namespace Sys2Proof

/-- No row of the opcode table has bits, so no word spells a command (log 17). -/
def decodeTableWord (_nbits _w : Nat) : Option Instr := none

end Sys2Proof
end

