-- ==== Sys2Proof/Config.lean ====
section
/-! DEFINITION. What the spec does not fix: the part's revision and serial (log 9), the check and the unused bytes of
a page (log 19). -/
namespace Sys2Proof.Config

/-- The revision of the part, in page 0. "The serial and revision differ from one part to another"
(R178), so it is free (log 9). -/
opaque partRevision : Byte

/-- The serial of the part, in page 0, free for the same reason (R178, log 9). -/
opaque partSerial : Word32

/-- The check over the 255 bytes before it. "Each page holds 256 bytes: its contents and a check over them" (R177)
gives no form of it, so it is free (log 19). -/
opaque pageCheck : List Byte → Byte

/-- The byte of a page at a place between its contents and its check, free for the same reason (R177, log 19). -/
opaque pageFill : Nat → Byte

end Sys2Proof.Config
end

