-- ==== Sys2Proof/Machine/State.lean ====
section
/-! DEFINITION. Every piece of state the spec gives the collator, as plain data, and its value at reset. -/
namespace Sys2Proof.Machine

/-! ### Bins and cells (Chapter 1) -/

/-- The class of a bin (Table 1-1). -/
inductive BinClass where
  | unused
  | pass
  | fail
deriving DecidableEq, Repr

/-- A wafer's retest policy (Table 4-1). -/
inductive Policy where
  | first
  | last
  | best
deriving DecidableEq, Repr

/-! ### Limit profiles and windows (Chapter 5) -/

/-- A watched entry of a profile: a bin, a warn limit and a hold limit, 0 for off (Table 5-1). -/
structure Watched where
  bin : Nat
  warn : Nat
  hold : Nat
deriving DecidableEq, Repr

/-- A limit profile (Table 5-1). A profile out of range exists only inside a command that refuses it
(R87, R88). -/
structure Profile where
  window : Nat
  raiseDebounce : Nat
  clearDebounce : Nat
  yieldWarnEnter : Nat
  yieldWarnLeave : Nat
  yieldHoldEnter : Nat
  yieldHoldLeave : Nat
  runWarn : Nat
  runHold : Nat
  siteWarn : Nat
  siteHold : Nat
  lotFloor : Nat
  watched : List Watched
deriving DecidableEq, Repr

/-- A profile waiting for the next window close, with its source (R90). -/
structure Staged where
  profile : Profile
  source : Byte
deriving DecidableEq, Repr

/-- The window counts of one wafer (Table 5-3). Watched counts stand by the entry's index. -/
structure Window where
  count : Nat
  pass : Nat
  fail : Nat
  siteResults : Vector Nat 16
  siteFails : Vector Nat 16
  watched : Vector Nat 8
deriving DecidableEq, Repr

/-! ### Alarm records (Chapter 6) -/

/-- Where an alarm record stands between verdicts (Table 6-1). -/
inductive AlarmState where
  | clear
  | pending
  | raised
  | clearing
deriving DecidableEq, Repr

/-- The level of an alarm record (Table 6-1). -/
inductive Level where
  | warn
  | hold
deriving DecidableEq, Repr

/-- The judgement of a window close or of an applied result (section 5.3). -/
inductive Verdict where
  | within
  | warn
  | hold
deriving DecidableEq, Repr

/-- One of the 26 alarm records of a wafer (Table 6-1). -/
structure Alarm where
  state : AlarmState
  level : Option Level
  acked : Bool
  count : Nat
deriving DecidableEq, Repr

/-! ### The wafer table (Chapter 2) -/

/-- The states of an occupied slot; FREE is a slot without a record (Table 2-1). -/
inductive WaferState where
  | active
  | draining
  | suspended
  | closed
  | abandoned
deriving DecidableEq, Repr

/-- Why a wafer closed (Table 2-4). -/
inductive CloseCause where
  | unloaded
  | forced
  | headLost
deriving DecidableEq, Repr

/-- The record of an occupied wafer slot (Table 2-1). `bins` stands by bin code, and its entry 0 is
no counter of the spec and stays 0. -/
structure Wafer where
  state : WaferState
  lotText : List Byte
  lotEntry : Option LotId
  number : Byte
  rows : Nat
  columns : Nat
  base : Nat
  size : Nat
  policy : Policy
  boundPort : Option PortId
  serial : Word32
  active : Profile
  activeSource : Byte
  staged : Option Staged
  revision : BitVec 32
  bins : Vector Nat 64
  tested : Nat
  passDies : Nat
  failDies : Nat
  resultsApplied : Nat
  retestResults : Nat
  excessResults : Nat
  missingSites : Nat
  skippedSites : Nat
  touchdownsApplied : Nat
  touchdownsVoided : Nat
  windowsClosed : Nat
  alarmsRaised : Nat
  run : Nat
  window : Window
  alarms : Vector Alarm 26
  closeCause : Option CloseCause
deriving DecidableEq, Repr

/-- A wafer slot: its generation, and its record while it is occupied (R18, R19). -/
structure Slot where
  generation : BitVec 4
  wafer : Option Wafer
deriving DecidableEq, Repr

/-! ### The lot table (Chapter 7) -/

/-- A lot entry in use (Table 7-1). `bins` stands by bin code, and its entry 0 stays 0. -/
structure Lot where
  lotText : List Byte
  opened : Nat
  closed : Nat
  abandoned : Nat
  tested : Nat
  pass : Nat
  bins : Vector Nat 64
  lowReported : Bool
deriving DecidableEq, Repr

/-! ### Frames and queues (Chapters 3, 8 and 9) -/

/-- A frame without its envelope: its kind and its payload (Table 9-4). -/
structure Frame where
  kind : Byte
  payload : List Byte
deriving DecidableEq, Repr

/-- The reasons of a TOUCH_ACK (Table 3-2). -/
inductive TouchReason where
  | accepted
  | badWafer
  | held
  | listFull
  | dupTag
  | badSite
  | dupDie
deriving DecidableEq, Repr

/-- The reasons of a REFUSE (Table 3-3). -/
inductive RefuseReason where
  | notUp
  | badWafer
  | stillDraining
  | noTouch
  | isSealed
  | notListed
  | duplicate
  | badBin
  | badLength
deriving DecidableEq, Repr

/-- A frame the collator sends to a head, by its fields (Table 9-6). -/
inductive HeadOut where
  | welcome (port : PortId) (periodMs : Nat) (resumed : Option Byte)
  | assign (handle : Byte) (lotText : List Byte) (number : Byte) (rows columns : Nat) (policy : Policy)
  | touchAck (handle tag : Byte) (reason : TouchReason)
  | refuse (kind : Byte) (reason : RefuseReason) (ref1 ref2 : Byte)
  | hold (handle : Byte) (source : Source)
  | proceed (handle : Byte)
  | cancel (handle : Byte)
deriving DecidableEq, Repr

/-- A frame in transmission and the divisor it goes out at (R140, R146; log 22). -/
structure Transmission where
  frame : HeadOut
  divisor : Nat
deriving DecidableEq, Repr

/-- The states of a receiver with what each holds (Table 8-2). -/
inductive Receiver where
  | hunt
  | length (kind : Byte)
  | payload (kind : Byte) (len : Nat) (got : List Byte)
  | check (kind : Byte) (got : List Byte)
deriving DecidableEq, Repr

/-- What a receive line has done since it was last high: fallen (a low stop bit), passed the 22nd low
bit-time, or passed the 200th (R141, R143, R144; log 11). -/
inductive LinePhase where
  | high
  | low
  | shortTaken
  | longTaken
deriving DecidableEq, Repr

/-! ### Touchdowns (Chapter 3) -/

/-- Whether an entry still takes results (Table 3-1). -/
inductive EntryState where
  | isOpen
  | isSealed
deriving DecidableEq, Repr

/-- One site of a touchdown entry (Table 3-1). -/
structure SiteEntry where
  number : SiteId
  column : Nat
  row : Nat
  result : Option Bin
deriving DecidableEq, Repr

/-- A touchdown entry (Table 3-1). -/
structure Entry where
  tag : Byte
  handle : Byte
  state : EntryState
  sites : List SiteEntry
deriving DecidableEq, Repr

/-! ### Head ports (Chapter 8) -/

/-- The causes of a loss (Table 8-5). -/
inductive LossCause where
  | silence
  | brk
  | restart
  | dropped
  | disabled
deriving DecidableEq, Repr

/-- The session states; LOST holds its cause (Table 8-4). -/
inductive Session where
  | disabled
  | down
  | up
  | lost (cause : LossCause)
deriving DecidableEq, Repr

/-- The units of a silence timer (Table 8-5). -/
inductive TimerUnits where
  | tenMs
  | oneS
deriving DecidableEq, Repr

/-- The line settings of a head port (R161). The reload mask has a bit for each kind: TOUCH 0, SITE 1,
LIFT 2, UNLOAD 3, BEAT 4. -/
structure LineSettings where
  divisor : Nat
  units : TimerUnits
  count : Byte
  mask : BitVec 5
deriving DecidableEq, Repr

/-- A head port (Table I-1, Chapter 8). `held` is HELD and the level of the HOLD line (R121). -/
structure Port where
  settings : LineSettings
  session : Session
  rx : Receiver
  line : LinePhase
  intake : List Frame
  outbound : List HeadOut
  sending : Option Transmission
  rdyOut : Bool
  rdyIn : Bool
  silence : Option Nat
  taken : Nat
  discarded : Nat
  overruns : Nat
  faultReported : Bool
  serial : Word32
  maxSites : Nat
  held : Bool
  touchdowns : List Entry
deriving DecidableEq, Repr

/-! ### The stack lamp (section 6.6) -/

/-- The lamp a condition is assigned to (R127). -/
inductive LampChoice where
  | none
  | green
  | amber
  | red
deriving DecidableEq, Repr

/-- The patterns of a lamp (R127). -/
inductive Pattern where
  | steady
  | blinkQuarter
  | blinkHalf
  | blinkOne
  | blinkTwo
  | blinkFour
deriving DecidableEq, Repr

/-- One entry of the lamp table (R127). -/
structure LampEntry where
  lamp : LampChoice
  pattern : Pattern
deriving DecidableEq, Repr

/-- The lamp table, one entry for each condition in rank order (Table 6-4). -/
structure LampTable where
  hold : LampEntry
  warn : LampEntry
  lost : LampEntry
  probing : LampEntry
  idle : LampEntry
deriving DecidableEq, Repr

/-- What one lamp shows: its pattern or dark, whether it is lit now, and the milliseconds to the end
of its half (R128). -/
structure LampState where
  shown : Option Pattern
  lit : Bool
  timer : Nat
deriving DecidableEq, Repr

/-- The three lamps, whose `lit` drives LAMPG, LAMPA and LAMPR. -/
structure Lamps where
  green : LampState
  amber : LampState
  red : LampState
deriving DecidableEq, Repr

/-! ### The host line and the notices (Chapter 9) -/

/-- The reply composed for the command taken last, and whether its transmission has begun (R167). -/
structure Reply where
  frame : Frame
  sending : Bool
deriving DecidableEq, Repr

/-- The host line block's own state (R166, R167). -/
structure HostLine where
  divisor : Nat
  rx : Receiver
  line : LinePhase
  intake : List Frame
  rdyOut : Bool
  rdyIn : Bool
  discarded : Nat
  overruns : Nat
  reply : Option Reply
deriving DecidableEq, Repr

/-- The result of a page operation (Table 10-2). -/
inductive PageResult where
  | erased
  | written
  | failed
deriving DecidableEq, Repr

/-- A notice by its fields (Table 9-3). -/
inductive Notice where
  | headUp (port : PortId) (resumed : Option Byte)
  | headLost (port : PortId) (cause : LossCause)
  | linkFault (port : PortId)
  | waferSuspended (port : PortId) (handle : Byte)
  | waferClosed (port : Option PortId) (handle : Byte) (cause : CloseCause)
  | alarmRaised (port : Option PortId) (handle : Byte) (source : Source) (level : Level)
  | alarmCleared (port : Option PortId) (handle : Byte) (source : Source) (level : Level)
  | holdOn (port : PortId) (handle : Byte) (source : Source)
  | holdOff (port : PortId) (handle : Byte)
  | lotLow (port : Option PortId) (handle : Byte) (lot : LotId)
  | pageDone (page : Byte) (result : PageResult)
deriving DecidableEq, Repr

/-! ### The page store (Chapter 10) -/

/-- A page that may be erased or written: page 1, or a profile page 2 to 7 by its place. -/
inductive StoredPage where
  | defaults
  | profile (i : Fin 6)
deriving DecidableEq, Repr

/-- A byte of a page: erased, of a value programmed, or left by an operation that has not completed or has
failed, with no value that anything determines (R177, R181; log 19). -/
inductive StoredByte where
  | erased
  | value (b : Byte)
  | lost
deriving DecidableEq, Repr

/-- The 256 bytes a page holds (R177). -/
abbrev PageBytes := Vector StoredByte 256

/-- What a page is judged to be, with its contents where it is VALID (R177, Table 10-2). -/
inductive Page (α : Type) where
  | valid (contents : α)
  | blank
  | damaged
deriving DecidableEq, Repr

/-- The identity fields of page 0 that differ from part to part (R178). -/
structure Identity where
  revision : Byte
  serial : Word32
deriving DecidableEq, Repr

/-- The snapshot page 1 holds (Table 10-1, R180). -/
structure Defaults where
  bins : Vector BinClass 64
  lampTable : LampTable
  lines : Vector LineSettings 4
  alertEnable : Bool
  profile : Profile
deriving DecidableEq, Repr

/-- The page and the kind of a page operation, and for a program the 256 bytes being programmed (R177). -/
inductive PageJob where
  | erase (page : StoredPage)
  | program (page : StoredPage) (bytes : Vector Byte 256)
deriving DecidableEq, Repr

/-- The operation in flight and the milliseconds to its completion (R181). -/
structure PageOp where
  job : PageJob
  remaining : Nat
deriving DecidableEq, Repr

/-! ### The whole state -/

/-- The collator. `map` is the map store, by address (R5); `page1` and `profilePages` are the bytes of pages 1
to 7 (R177), those of page 0 being composed from `identity`; `pending` is the
queue of the commands that wait, first in first out (log 17). -/
structure State where
  map : List Host.Cell
  bins : Vector BinClass 64
  slots : Vector Slot 12
  lots : Vector (Option Lot) 4
  ports : Vector Port 4
  lampTable : LampTable
  lamps : Lamps
  host : HostLine
  notices : List Notice
  overflow : Bool
  alertEnable : Bool
  defaultProfile : Profile
  identity : Identity
  page1 : PageBytes
  profilePages : Vector PageBytes 6
  pageOp : Option PageOp
  pending : List Instr
deriving DecidableEq, Repr

/-- Why a step stops with a fault. -/
inductive Fault where
  /-- Raised by MAP_READ, LIFT, WAFER_CLOSE and WAFER_ABANDON in a state whose records name a map cell
  at 1,048,576 or above, which does not exist (R8). No run from reset reaches such a state. Safe: the
  model stops where it has no cell to read or write (log 13). -/
  | cellAddress
deriving DecidableEq, Repr

/-- Why a command has no meaning. -/
inductive Refusal where
  /-- Raised by the arm of a command that has no meaning yet. Safe: nothing can be proved of it. -/
  | notModelled (mnemonic : String)
deriving DecidableEq, Repr

/-! ### Values at reset -/

/-- Bin 0 UNUSED, bin 1 PASS, bins 2 to 63 FAIL (R2). -/
def factoryBins : Vector BinClass 64 :=
  ((Vector.replicate 64 BinClass.fail).set 0 .unused).set 1 .pass

/-- The factory profile (Table 5-2). -/
def factoryProfile : Profile where
  window := 256
  raiseDebounce := 2
  clearDebounce := 2
  yieldWarnEnter := 900
  yieldWarnLeave := 920
  yieldHoldEnter := 800
  yieldHoldLeave := 850
  runWarn := 8
  runHold := 16
  siteWarn := 100
  siteHold := 200
  lotFloor := 0
  watched := []

/-- The default lamp table (Table 6-5). -/
def factoryLampTable : LampTable where
  hold := ⟨.red, .steady⟩
  warn := ⟨.amber, .steady⟩
  lost := ⟨.amber, .blinkOne⟩
  probing := ⟨.green, .steady⟩
  idle := ⟨.green, .blinkQuarter⟩

/-- The factory line settings: divisor 0, units 10 ms, count 0, all five kinds (R182). -/
def factoryLine : LineSettings where
  divisor := 0
  units := .tenMs
  count := 0
  mask := 31

/-- A port after power-up with the factory settings: DISABLED, everything empty (R165). -/
def Port.reset : Port where
  settings := factoryLine
  session := .disabled
  rx := .hunt
  line := .high
  intake := []
  outbound := []
  sending := none
  rdyOut := false
  rdyIn := true
  silence := none
  taken := 0
  discarded := 0
  overruns := 0
  faultReported := false
  serial := 0
  maxSites := 0
  held := false
  touchdowns := []

/-- The host line after power-up with both straps low (R166; log 6, log 7, log 11). -/
def HostLine.reset : HostLine where
  divisor := 2
  rx := .hunt
  line := .high
  intake := []
  rdyOut := true
  rdyIn := true
  discarded := 0
  overruns := 0
  reply := none

/-- A page erased throughout (R177). -/
def PageBytes.erased : PageBytes := Vector.replicate 256 .erased

/-- The collator after power-up with pages 1 to 7 BLANK (R182; log 7, log 8): the factory settings,
only IDLE active, GREEN in the lit half of its 0.25 Hz blink (R130). -/
def State.reset : State where
  map := []
  bins := factoryBins
  slots := Vector.replicate 12 ⟨0, none⟩
  lots := Vector.replicate 4 none
  ports := Vector.replicate 4 Port.reset
  lampTable := factoryLampTable
  lamps := ⟨⟨some .blinkQuarter, true, 2000⟩, ⟨none, false, 0⟩, ⟨none, false, 0⟩⟩
  host := HostLine.reset
  notices := []
  overflow := false
  alertEnable := true
  defaultProfile := factoryProfile
  identity := ⟨Config.partRevision, Config.partSerial⟩
  page1 := PageBytes.erased
  profilePages := Vector.replicate 6 PageBytes.erased
  pageOp := none
  pending := []

end Sys2Proof.Machine
end

