-- ==== Sys2Proof/Machine/Table.lean ====
section
/-! DEFINITION. Reading and writing the fixed tables, and the lists of their indexes in ascending order. -/
namespace Sys2Proof.Machine

/-- Entry `i` of a fixed table. -/
def tabGet {α : Type} {n : Nat} (v : Vector α n) (i : Fin n) : α := v[i.val]

/-- A fixed table with entry `i` replaced. -/
def tabSet {α : Type} {n : Nat} (v : Vector α n) (i : Fin n) (x : α) : Vector α n := v.set i.val x

/-- A fixed table with every entry changed by `f`. -/
def tabMap {α β : Type} {n : Nat} (f : α → β) (v : Vector α n) : Vector β n :=
  ⟨⟨v.toArray.toList.map f⟩, by simp⟩

/-- A fixed table with entry `i` changed by `f`. -/
def tabModify {α : Type} {n : Nat} (v : Vector α n) (i : Fin n) (f : α → α) : Vector α n :=
  tabSet v i (f (tabGet v i))

/-- Ports A to D in index order. -/
def portIds : List PortId := [0, 1, 2, 3]

/-- The slots in ascending index. -/
def slotIds : List SlotId := [0, 1, 2, 3, 4, 5, 6, 7, 8, 9, 10, 11]

/-- The lot entries in ascending index. -/
def lotIds : List LotId := [0, 1, 2, 3]

/-- The site numbers in ascending order. -/
def siteIds : List SiteId := [0, 1, 2, 3, 4, 5, 6, 7, 8, 9, 10, 11, 12, 13, 14, 15]

/-- The alarm sources in source order (Table 6-2). -/
def sources : List Source :=
  [0, 1, 2, 3, 4, 5, 6, 7, 8, 9, 10, 11, 12, 13, 14, 15, 16, 17, 18, 19, 20, 21, 22, 23, 24, 25]

/-- The places of a watched list, 0 to 7 (Table 5-1). -/
def watchedIds : List (Fin 8) := [0, 1, 2, 3, 4, 5, 6, 7]

/-- The entries of a fixed table in index order. -/
def tabList {α : Type} {n : Nat} (v : Vector α n) : List α := v.toArray.toList

end Sys2Proof.Machine
end

