-- ==== Sys2Proof/Machine/Operands.lean ====
section
/-! DEFINITION. The characters of frames: multi-character values, code tables, profile images, cells, the
frame envelope and its check. -/
namespace Sys2Proof.Machine

/-! ### Multi-character values, most significant character first (R176) -/

/-- Character `i` of a payload, 0 where the payload is too short to hold it (R54). -/
def charAt (bs : List Byte) (i : Nat) : Byte := bs.getD i 0

/-- The one-character number at `i`. -/
def read1 (bs : List Byte) (i : Nat) : Nat := (charAt bs i).toNat

/-- The two-character number at `i`. -/
def read2 (bs : List Byte) (i : Nat) : Nat := 256 * read1 bs i + read1 bs (i + 1)

/-- The three-character number at `i`. -/
def read3 (bs : List Byte) (i : Nat) : Nat := 256 * read2 bs i + read1 bs (i + 2)

/-- The four-character number at `i`. -/
def read4 (bs : List Byte) (i : Nat) : Nat := 256 * read3 bs i + read1 bs (i + 3)

/-- One character holding `n`. -/
def write1 (n : Nat) : List Byte := [BitVec.ofNat 8 n]

/-- Two characters holding `n`. -/
def write2 (n : Nat) : List Byte := [BitVec.ofNat 8 (n / 256), BitVec.ofNat 8 n]

/-- Three characters holding `n`. -/
def write3 (n : Nat) : List Byte := BitVec.ofNat 8 (n / 65536) :: write2 n

/-- Four characters holding `n`. -/
def write4 (n : Nat) : List Byte := BitVec.ofNat 8 (n / 16777216) :: write3 n

/-- A flag as 0 or 1. -/
def flagChar (b : Bool) : Byte := if b then 1 else 0

/-! ### Codes -/

/-- The class of a class code, absent above 2 (Table 1-1). -/
def BinClass.ofCode : Nat → Option BinClass
  | 0 => some .unused
  | 1 => some .pass
  | 2 => some .fail
  | _ => none

/-- The code of a class (Table 1-1). -/
def BinClass.code : BinClass → Byte
  | .unused => 0
  | .pass => 1
  | .fail => 2

/-- The policy of a policy code, absent above 2 (Table 2-2). -/
def Policy.ofCode : Nat → Option Policy
  | 0 => some .first
  | 1 => some .last
  | 2 => some .best
  | _ => none

/-- The code of a policy (Table 4-1). -/
def Policy.code : Policy → Byte
  | .first => 0
  | .last => 1
  | .best => 2

/-- The code of a wafer state (Table 2-4). -/
def WaferState.code : WaferState → Byte
  | .active => 1
  | .draining => 2
  | .suspended => 3
  | .closed => 4
  | .abandoned => 5

/-- The code of a close cause (Table 2-4). -/
def CloseCause.code : CloseCause → Byte
  | .unloaded => 1
  | .forced => 2
  | .headLost => 3

/-- The code of a session state (Table 8-4). -/
def Session.code : Session → Byte
  | .disabled => 0
  | .down => 1
  | .up => 2
  | .lost _ => 3

/-- The code of a loss cause (Table 8-5). -/
def LossCause.code : LossCause → Byte
  | .silence => 1
  | .brk => 2
  | .restart => 3
  | .dropped => 4
  | .disabled => 5

/-- The code of an alarm state (Table 6-2). -/
def AlarmState.code : AlarmState → Byte
  | .clear => 0
  | .pending => 1
  | .raised => 2
  | .clearing => 3

/-- The code of a level (Table 6-2). -/
def Level.code : Level → Byte
  | .warn => 1
  | .hold => 2

/-- The code of a touch reason (Table 3-2). -/
def TouchReason.code : TouchReason → Byte
  | .accepted => 0
  | .badWafer => 1
  | .held => 2
  | .listFull => 3
  | .dupTag => 4
  | .badSite => 5
  | .dupDie => 6

/-- The code of a refusal reason (Table 3-3). -/
def RefuseReason.code : RefuseReason → Byte
  | .notUp => 1
  | .badWafer => 2
  | .stillDraining => 3
  | .noTouch => 4
  | .isSealed => 5
  | .notListed => 6
  | .duplicate => 7
  | .badBin => 8
  | .badLength => 15

/-- The code of an entry state in HEAD_STATUS (R163). -/
def EntryState.code : EntryState → Byte
  | .isOpen => 0
  | .isSealed => 1

/-- The code of the timer units (Table 8-5). -/
def TimerUnits.code : TimerUnits → Byte
  | .tenMs => 0
  | .oneS => 1

/-- The lamp of a lamp code, absent above 3 (R129). -/
def LampChoice.ofCode : Nat → Option LampChoice
  | 0 => some .none
  | 1 => some .green
  | 2 => some .amber
  | 3 => some .red
  | _ => Option.none

/-- The code of a lamp (R129). -/
def LampChoice.code : LampChoice → Byte
  | .none => 0
  | .green => 1
  | .amber => 2
  | .red => 3

/-- The pattern of a pattern code, absent above 5 (R129). -/
def Pattern.ofCode : Nat → Option Pattern
  | 0 => some .steady
  | 1 => some .blinkQuarter
  | 2 => some .blinkHalf
  | 3 => some .blinkOne
  | 4 => some .blinkTwo
  | 5 => some .blinkFour
  | _ => none

/-- The code of a pattern (R129). -/
def Pattern.code : Pattern → Byte
  | .steady => 0
  | .blinkQuarter => 1
  | .blinkHalf => 2
  | .blinkOne => 3
  | .blinkTwo => 4
  | .blinkFour => 5

/-- The result code of a page operation (Table 10-2). -/
def PageResult.code : PageResult → Byte
  | .erased => 1
  | .written => 2
  | .failed => 3

/-- The page a page id of 1 to 7 names (Table 10-1). -/
def StoredPage.ofId : Nat → Option StoredPage
  | 1 => some .defaults
  | 2 => some (.profile 0)
  | 3 => some (.profile 1)
  | 4 => some (.profile 2)
  | 5 => some (.profile 3)
  | 6 => some (.profile 4)
  | 7 => some (.profile 5)
  | _ => none

/-- The id of a stored page (Table 10-1). -/
def StoredPage.id : StoredPage → Byte
  | .defaults => 1
  | .profile i => BitVec.ofNat 8 (i.val + 2)

/-- The status of a reply (Table 9-1). -/
inductive Status where
  | ok
  | busy
  | badArg
  | unknownKind
  | unknownWafer
  | wrongState
  | noSlot
  | noRoom
  | noLot
  | dupWafer
  | headBusy
  | headDown
  | badLimits
  | badPage
  | pageLocked
  | badLength
deriving DecidableEq, Repr

/-- The code of a status (Table 9-1). -/
def Status.code : Status → Byte
  | .ok => 0
  | .busy => 1
  | .badArg => 2
  | .unknownKind => 3
  | .unknownWafer => 4
  | .wrongState => 5
  | .noSlot => 6
  | .noRoom => 7
  | .noLot => 8
  | .dupWafer => 9
  | .headBusy => 10
  | .headDown => 11
  | .badLimits => 12
  | .badPage => 13
  | .pageLocked => 14
  | .badLength => 15

/-- An optional one-character field, 0xFF when absent (R176). -/
def portChar : Option PortId → Byte
  | some p => BitVec.ofNat 8 p.val
  | none => 0xFF

/-- An optional lot entry, 0xFF when absent (R176). -/
def lotChar : Option LotId → Byte
  | some l => BitVec.ofNat 8 l.val
  | none => 0xFF

/-- An optional level, 0 when absent (R176). -/
def levelChar : Option Level → Byte
  | some l => l.code
  | none => 0

/-- An optional close cause, 0 when absent (Table 2-4). -/
def causeChar : Option CloseCause → Byte
  | some c => c.code
  | none => 0

/-! ### Cells (Table 9-5) -/

/-- The test count of a cell. -/
def cellCount (c : Byte) : Nat := c.toNat / 64

/-- The bin of a cell. -/
def cellBin (c : Byte) : Bin := Fin.ofNat 64 c.toNat

/-- The cell of test count `t` and bin `b`. -/
def mkCell (t : Nat) (b : Bin) : Byte := BitVec.ofNat 8 (64 * t + b.val)

/-! ### Profile images (Table 5-1) -/

/-- The watched entry whose five characters begin at `i`. -/
def readWatched (bs : List Byte) (i : Nat) : Watched :=
  ⟨read1 bs i, read2 bs (i + 1), read2 bs (i + 3)⟩

/-- The profile whose image begins at `o`: 21 characters, then five for each watched entry. -/
def readProfile (bs : List Byte) (o : Nat) : Profile where
  window := read2 bs o
  raiseDebounce := read1 bs (o + 2)
  clearDebounce := read1 bs (o + 3)
  yieldWarnEnter := read2 bs (o + 4)
  yieldWarnLeave := read2 bs (o + 6)
  yieldHoldEnter := read2 bs (o + 8)
  yieldHoldLeave := read2 bs (o + 10)
  runWarn := read1 bs (o + 12)
  runHold := read1 bs (o + 13)
  siteWarn := read2 bs (o + 14)
  siteHold := read2 bs (o + 16)
  lotFloor := read2 bs (o + 18)
  watched := (List.range (read1 bs (o + 20))).map fun k => readWatched bs (o + 21 + 5 * k)

/-- The image of a watched entry. -/
def Watched.image (w : Watched) : List Byte := write1 w.bin ++ write2 w.warn ++ write2 w.hold

/-- The image of a profile. -/
def Profile.image (p : Profile) : List Byte :=
  write2 p.window ++ write1 p.raiseDebounce ++ write1 p.clearDebounce ++ write2 p.yieldWarnEnter ++
  write2 p.yieldWarnLeave ++ write2 p.yieldHoldEnter ++ write2 p.yieldHoldLeave ++
  write1 p.runWarn ++ write1 p.runHold ++ write2 p.siteWarn ++ write2 p.siteHold ++
  write2 p.lotFloor ++ write1 p.watched.length ++ p.watched.flatMap Watched.image

/-- The length rule of LIMITS_STAGE's image form and of PAGE_WRITE: one leading character, then an
image, at least 22 characters and exactly 22 + 5 × the watched count carried (R102, R180). -/
def imageLengthOk (bs : List Byte) : Bool :=
  22 ≤ bs.length && bs.length == 22 + 5 * read1 bs 21

/-! ### Line settings, lamp tables and bin classes in frames -/

/-- The settings as HEAD_SET carries them: divisor (2), units, count, mask (R161). -/
def LineSettings.chars (l : LineSettings) : List Byte :=
  write2 l.divisor ++ [l.units.code, l.count, BitVec.ofNat 8 l.mask.toNat]

/-- The line settings whose five characters begin at `o` (R161). -/
def readLine (bs : List Byte) (o : Nat) : LineSettings :=
  ⟨read2 bs o, if read1 bs (o + 2) = 0 then .tenMs else .oneS, charAt bs (o + 3), BitVec.ofNat 5 (read1 bs (o + 4))⟩

/-- The two characters of a lamp table entry (R129). -/
def LampEntry.chars (e : LampEntry) : List Byte := [e.lamp.code, e.pattern.code]

/-- The ten characters of a lamp table, in rank order (R129). -/
def LampTable.chars (t : LampTable) : List Byte :=
  t.hold.chars ++ t.warn.chars ++ t.lost.chars ++ t.probing.chars ++ t.idle.chars

/-- The lamp table entry at `i`, absent where a code is out of range (R129). -/
def readLampEntry (bs : List Byte) (i : Nat) : Option LampEntry :=
  match LampChoice.ofCode (read1 bs i), Pattern.ofCode (read1 bs (i + 1)) with
  | some l, some p => some ⟨l, p⟩
  | _, _ => none

/-- The lamp table of a LAMP_SET payload, absent where a code is out of range (R129). -/
def readLampTable (bs : List Byte) : Option LampTable :=
  match readLampEntry bs 0, readLampEntry bs 2, readLampEntry bs 4, readLampEntry bs 6,
    readLampEntry bs 8 with
  | some h, some w, some l, some p, some i => some ⟨h, w, l, p, i⟩
  | _, _, _, _, _ => none

/-- The class codes of a BINS_SET payload are in range, with bin 0 UNUSED (R3). -/
def binCodesOk (bs : List Byte) : Bool :=
  bs.all (fun c => c.toNat ≤ 2) && charAt bs 0 == 0

/-- The bin class table of 64 class codes (R3). -/
def readBins (bs : List Byte) : Vector BinClass 64 :=
  Vector.ofFn fun b => (BinClass.ofCode (read1 bs b.val)).getD .unused

/-- The 64 class codes of a bin class table (R4). -/
def binChars (t : Vector BinClass 64) : List Byte := (tabList t).map BinClass.code

/-- The counters of bins 1 to 63, three characters each (R39, R137). -/
def binCounterChars (v : Vector Nat 64) : List Byte := (tabList v).tail.flatMap write3

/-! ### Frames (Table 9-4, Table 9-6) -/

/-- The kind of a frame the collator sends to a head (Table 8-3). -/
def HeadOut.kind : HeadOut → Byte
  | .welcome _ _ _ => 0x21
  | .assign _ _ _ _ _ _ => 0x22
  | .touchAck _ _ _ => 0x23
  | .refuse _ _ _ _ => 0x24
  | .hold _ _ => 0x25
  | .proceed _ => 0x26
  | .cancel _ => 0x27

/-- The payload of a frame the collator sends to a head (Table 9-6). -/
def HeadOut.payload : HeadOut → List Byte
  | .welcome p ms h => BitVec.ofNat 8 p.val :: write3 ms ++ h.toList
  | .assign h lot n r c pol => h :: lot ++ n :: write2 r ++ write2 c ++ [pol.code]
  | .touchAck h t r => [h, t, r.code]
  | .refuse k r a b => [k, r.code, a, b]
  | .hold h src => [h, BitVec.ofNat 8 src.val]
  | .proceed h => [h]
  | .cancel h => [h]

/-- The frame the transmitter sends for it. -/
def HeadOut.frame (f : HeadOut) : Frame := ⟨f.kind, f.payload⟩

/-- One bit-by-bit step of the CRC-8 of x⁸ + x² + x + 1 (R142). -/
def crcShift (c : Byte) : Byte := if c.msb then (c <<< 1) ^^^ 0x07 else c <<< 1

/-- The CRC-8 after one more character, most significant bit first (R142). -/
def crcStep (c : Byte) (b : Byte) : Byte :=
  crcShift (crcShift (crcShift (crcShift (crcShift (crcShift (crcShift (crcShift (c ^^^ b))))))))

/-- The CRC-8 over a list of characters, from 0 and with no final inversion (R142). -/
def crc8 (bs : List Byte) : Byte := bs.foldl crcStep 0

/-- The check character of a frame: over kind, length and payload (R142). -/
def frameCheck (kind : Byte) (payload : List Byte) : Byte :=
  crc8 (kind :: BitVec.ofNat 8 payload.length :: payload)

/-- The characters of a frame on its line: the kind with its mark high, then length, payload and check
with the mark low (Table 9-4, R140). -/
def Frame.wire (f : Frame) : List RxChar :=
  ⟨f.kind, true, true⟩ :: ⟨BitVec.ofNat 8 f.payload.length, false, true⟩ ::
    (f.payload.map fun b => ⟨b, false, true⟩) ++ [⟨frameCheck f.kind f.payload, false, true⟩]

/-- The notice record of NOTICE_FETCH (Table 9-8). -/
def Notice.record : Notice → List Byte
  | .headUp p h => [1, BitVec.ofNat 8 p.val, h.getD 0xFF, 0, 0]
  | .headLost p c => [2, BitVec.ofNat 8 p.val, 0xFF, c.code, 0]
  | .linkFault p => [3, BitVec.ofNat 8 p.val, 0xFF, 0, 0]
  | .waferSuspended p h => [4, BitVec.ofNat 8 p.val, h, 0, 0]
  | .waferClosed p h c => [5, portChar p, h, c.code, 0]
  | .alarmRaised p h src l => [6, portChar p, h, BitVec.ofNat 8 src.val, l.code]
  | .alarmCleared p h src l => [7, portChar p, h, BitVec.ofNat 8 src.val, l.code]
  | .holdOn p h src => [8, BitVec.ofNat 8 p.val, h, BitVec.ofNat 8 src.val, Level.hold.code]
  | .holdOff p h => [9, BitVec.ofNat 8 p.val, h, 0, 0]
  | .lotLow p h l => [10, portChar p, h, BitVec.ofNat 8 l.val, 0]
  | .pageDone pg r => [11, 0xFF, 0xFF, pg, r.code]

end Sys2Proof.Machine
end

