-- ==== Sys2Proof/Machine/Flags.lean ====
section
/-! DEFINITION. The judgements: profile checks, verdicts, the alarm record's transitions, which records hold
a head, saturating counts and the ready lines. -/
namespace Sys2Proof.Machine

/-! ### Saturating counters (R17, R133, R147) -/

/-- The largest value of a saturating counter. -/
def countCap : Nat := 16777215

/-- A saturating sum. -/
def satAdd (n k : Nat) : Nat := min (n + k) countCap

/-- A saturating increment. -/
def bump (n : Nat) : Nat := satAdd n 1

/-! ### Profiles in range and consistent (R87, R88) -/

/-- A watched entry is in range (R87). -/
def Watched.inRange (w : Watched) : Bool :=
  1 ≤ w.bin && w.bin ≤ 63 && w.warn ≤ 4096 && w.hold ≤ 4096

/-- A run limit is 0 or 2 to 255 (R87). -/
def runLimitOk (n : Nat) : Bool := n == 0 || (2 ≤ n && n ≤ 255)

/-- A profile is well-formed: every field is in the range of Table 5-1 (R87). -/
def Profile.wellFormed (p : Profile) : Bool :=
  (16 ≤ p.window && p.window ≤ 4096) && (1 ≤ p.raiseDebounce && p.raiseDebounce ≤ 8) &&
  (1 ≤ p.clearDebounce && p.clearDebounce ≤ 8) && p.yieldWarnEnter ≤ 1000 &&
  p.yieldWarnLeave ≤ 1000 && p.yieldHoldEnter ≤ 1000 && p.yieldHoldLeave ≤ 1000 &&
  runLimitOk p.runWarn && runLimitOk p.runHold && p.siteWarn ≤ 1000 && p.siteHold ≤ 1000 &&
  p.lotFloor ≤ 1000 && p.watched.length ≤ 8 && p.watched.all Watched.inRange

/-- Where both values of a pair are on, the warn value is no more than the hold value (R88). -/
def pairOk (warn hold : Nat) : Bool := warn == 0 || hold == 0 || warn ≤ hold

/-- A well-formed profile is consistent (R88). -/
def Profile.consistent (p : Profile) : Bool :=
  p.yieldHoldEnter ≤ p.yieldWarnEnter && p.yieldHoldEnter ≤ p.yieldHoldLeave &&
  p.yieldWarnEnter ≤ p.yieldWarnLeave && p.yieldHoldLeave ≤ p.yieldWarnLeave &&
  p.watched.all (fun w => pairOk w.warn w.hold) && pairOk p.runWarn p.runHold &&
  pairOk p.siteWarn p.siteHold

/-- A profile that a command accepts (R87, R88). -/
def Profile.accepted (p : Profile) : Bool := p.wellFormed && p.consistent

/-! ### Verdicts (sections 4.6 and 5.3) -/

/-- The per-mille of `part` in `whole`, rounded down. -/
def perMille (part whole : Nat) : Nat := 1000 * part / whole

/-- The current level of a record: none in CLEAR (R94). -/
def Alarm.currentLevel (a : Alarm) : Option Level :=
  match a.state with
  | .clear => none
  | .pending => a.level
  | .raised => a.level
  | .clearing => a.level

/-- The yield verdict of a window yield `y` under the YIELD record's level (R94). -/
def yieldVerdict (p : Profile) (level : Option Level) (y : Nat) : Verdict :=
  if p.yieldHoldEnter ≠ 0 ∧
      (y < p.yieldHoldEnter ∨ (level = some .hold ∧ y ≤ p.yieldHoldLeave)) then .hold
  else if p.yieldWarnEnter ≠ 0 ∧
      (y < p.yieldWarnEnter ∨ (level ≠ none ∧ y ≤ p.yieldWarnLeave)) then .warn
  else .within

/-- The watched-bin verdict of a count (R97). -/
def watchedVerdict (w : Watched) (c : Nat) : Verdict :=
  if w.hold ≠ 0 ∧ w.hold < c then .hold
  else if w.warn ≠ 0 ∧ w.warn < c then .warn
  else .within

/-- The RUN verdict of a current run (R81, R100). -/
def runVerdict (p : Profile) (run : Nat) : Verdict :=
  if p.runHold ≠ 0 ∧ p.runHold ≤ run then .hold
  else if p.runWarn ≠ 0 ∧ p.runWarn ≤ run then .warn
  else .within

/-- A site qualifies with at least 8 results in the window (R98). Only the counts are read: that two sites with 8
results qualify under a head that announced fewer than two sites, too, is the model's reading (log 27). -/
def Window.qualifies (w : Window) (s : SiteId) : Bool := 8 ≤ tabGet w.siteResults s

/-- The pass count of a site: its results less its fails (R98). -/
def Window.sitePass (w : Window) (s : SiteId) : Nat := tabGet w.siteResults s - tabGet w.siteFails s

/-- The qualifying sites of a window, in ascending order (R98). -/
def Window.qualifying (w : Window) : List SiteId := siteIds.filter w.qualifies

/-- The deficit of a qualifying site: how far its yield lies below the mean of the other qualifying
sites (R99, steps 1 to 3). -/
def Window.deficit (w : Window) (s : SiteId) : Nat :=
  let others := w.qualifying.filter (· ≠ s)
  perMille ((others.map w.sitePass).sum) ((others.map (tabGet w.siteResults)).sum) -
    perMille (w.sitePass s) (tabGet w.siteResults s)

/-- The site verdict of a closing window (R99; log 27 for a head that announced fewer than two sites). -/
def siteVerdict (p : Profile) (w : Window) (s : SiteId) : Verdict :=
  if w.qualifying.length < 2 ∨ w.qualifies s = false then .within
  else if p.siteHold ≠ 0 ∧ p.siteHold < w.deficit s then .hold
  else if p.siteWarn ≠ 0 ∧ p.siteWarn < w.deficit s then .warn
  else .within

/-- The source of a watched entry's alarm (Table 6-2). -/
def binSource (i : Fin 8) : Source := ⟨i.val + 2, by omega⟩

/-- The source of a site's alarm (Table 6-2). -/
def siteSource (s : SiteId) : Source := ⟨s.val + 10, by omega⟩

/-- The source of the yield alarm (Table 6-2). -/
def yieldSource : Source := 0

/-- The source of the run alarm (Table 6-2). -/
def runSource : Source := 1

/-- The verdicts of a closing window in the order they are given: YIELD, the watched bins of the
active list, the sixteen sites (R93 step 1, R101). All are computed from the counts and the YIELD
level as they stand before any is given. -/
def closingVerdicts (p : Profile) (w : Window) (yieldAlarm : Alarm) : List (Source × Verdict) :=
  (yieldSource, yieldVerdict p yieldAlarm.currentLevel (perMille w.pass p.window)) ::
    (watchedIds.filterMap fun i =>
      (p.watched[i.val]?).map fun e => (binSource i, watchedVerdict e (tabGet w.watched i))) ++
    siteIds.map fun s => (siteSource s, siteVerdict p w s)

/-! ### The alarm record (section 6.2) -/

/-- A record in CLEAR (R110). -/
def Alarm.cleared : Alarm := ⟨.clear, none, false, 0⟩

/-- A record RAISED at level WARN. -/
def Alarm.raisedWarn : Alarm := ⟨.raised, some .warn, false, 0⟩

/-- A record RAISED at level HOLD, acknowledged or not. -/
def Alarm.raisedHold (acked : Bool) : Alarm := ⟨.raised, some .hold, acked, 0⟩

/-- A record of level `l` RAISED and not acknowledged. -/
def Alarm.raisedAt : Level → Alarm
  | .warn => .raisedWarn
  | .hold => .raisedHold false

/-- What a verdict made of a record, beyond the record itself (R112 to R117). -/
inductive AlarmEvent where
  | none
  | raised (l : Level)
  | escalated
  | cleared (l : Level)
deriving DecidableEq, Repr

/-- A record PENDING at `l` with debounce count `n`, raised at once where the count has reached the
raise debounce (R112). -/
def settleRaise (raiseDebounce : Nat) (l : Level) (n : Nat) : Alarm × AlarmEvent :=
  if raiseDebounce ≤ n then (Alarm.raisedAt l, .raised l) else (⟨.pending, some l, false, n⟩, .none)

/-- A record CLEARING at `l` with debounce count `n`, cleared at once where the count has reached the
clear debounce (R115). A record CLEARING at HOLD is acknowledged (R114). -/
def settleClear (clearDebounce : Nat) (l : Level) (n : Nat) : Alarm × AlarmEvent :=
  if clearDebounce ≤ n then (Alarm.cleared, .cleared l)
  else (⟨.clearing, some l, l == .hold, n⟩, .none)

/-- A record acts on a verdict (R112 to R115, Table 6-3). -/
def alarmStep (raiseDebounce clearDebounce : Nat) (a : Alarm) (v : Verdict) : Alarm × AlarmEvent :=
  match a.state, v with
  | .clear, .within => (a, .none)
  | .clear, .warn => settleRaise raiseDebounce .warn 1
  | .clear, .hold => settleRaise raiseDebounce .hold 1
  | .pending, .within => (Alarm.cleared, .none)
  | .pending, .warn => settleRaise raiseDebounce .warn (a.count + 1)
  | .pending, .hold => settleRaise raiseDebounce .hold (a.count + 1)
  | .raised, v =>
    if a.level = some .hold then
      if a.acked then
        match v with
        | .hold => (a, .none)
        | .warn => (Alarm.raisedWarn, .none)
        | .within => settleClear clearDebounce .hold 1
      else (a, .none)
    else
      match v with
      | .warn => (a, .none)
      | .hold => (Alarm.raisedHold false, .escalated)
      | .within => settleClear clearDebounce .warn 1
  | .clearing, .within =>
    settleClear clearDebounce (if a.level = some .hold then .hold else .warn) (a.count + 1)
  | .clearing, .warn =>
    if a.level = some .hold then (Alarm.raisedHold true, .none) else (Alarm.raisedWarn, .none)
  | .clearing, .hold =>
    if a.level = some .hold then (Alarm.raisedHold true, .none)
    else (Alarm.raisedHold false, .escalated)

/-- The raise debounce of a source: 1 for RUN in every profile (R116). -/
def raiseDebounceOf (p : Profile) (src : Source) : Nat :=
  if src = runSource then 1 else p.raiseDebounce

/-! ### What holds a head, and what lights WARN (R121, R126) -/

/-- The record is RAISED at HOLD without acknowledgement. -/
def Alarm.holds (a : Alarm) : Bool := a.state == .raised && a.level == some .hold && !a.acked

/-- The record counts toward the WARN lamp: RAISED or CLEARING at WARN, or at HOLD and acknowledged
(Table 6-4). -/
def Alarm.warns (a : Alarm) : Bool :=
  (a.state == .raised || a.state == .clearing) &&
    (a.level == some .warn || (a.level == some .hold && a.acked))

/-- A wafer's state is one in which it is bound (R121). -/
def WaferState.isBound : WaferState → Bool
  | .active => true
  | .draining => true
  | .suspended => true
  | .closed => false
  | .abandoned => false

/-- The wafer is bound to port `p` (R121). -/
def Wafer.boundTo (w : Wafer) (p : PortId) : Bool := w.state.isBound && w.boundPort == some p

/-- Some record of the wafer holds its head. -/
def Wafer.holds (w : Wafer) : Bool := (tabList w.alarms).any Alarm.holds

/-- Some record of the wafer counts toward the WARN lamp. -/
def Wafer.warns (w : Wafer) : Bool := (tabList w.alarms).any Alarm.warns

/-- The first record, in source order, that is RAISED at HOLD and not acknowledged (R122). -/
def Wafer.firstHold (w : Wafer) : Source :=
  (sources.find? fun src => (tabGet w.alarms src).holds).getD yieldSource

/-! ### The ready lines (R145, R166) -/

/-- RDY-out of a head port after a frame has joined an intake queue of now `n` frames (R145). -/
def rdyAfterJoin (n : Nat) (was : Bool) : Bool := if 6 ≤ n then false else was

/-- RDY-out of a head port after a frame has left, `n` frames remaining (R145). -/
def rdyAfterLeave (n : Nat) (was : Bool) : Bool := if n ≤ 4 then true else was

/-- RDY-out of the host line after a frame has joined (R166). -/
def hostRdyAfterJoin (n : Nat) (was : Bool) : Bool := if 3 ≤ n then false else was

/-- RDY-out of the host line after a frame has left (R166). -/
def hostRdyAfterLeave (n : Nat) (was : Bool) : Bool := if n ≤ 2 then true else was

/-! ### Lamps (R127, R128) -/

/-- Half a period in milliseconds; 0 for STEADY, which has none (R128). -/
def Pattern.halfMs : Pattern → Nat
  | .steady => 0
  | .blinkQuarter => 2000
  | .blinkHalf => 1000
  | .blinkOne => 500
  | .blinkTwo => 250
  | .blinkFour => 125

/-- A lamp that begins to show `shown`: lit first, with a full half (R128). -/
def LampState.start : Option Pattern → LampState
  | none => ⟨none, false, 0⟩
  | some p => ⟨some p, true, p.halfMs⟩

/-- A lamp that is to show `shown`: unchanged where it shows it already (R128). -/
def LampState.show (l : LampState) (shown : Option Pattern) : LampState :=
  if l.shown = shown then l else LampState.start shown

/-- The lamp choice that names a lamp. -/
def lampChoice : Lamp → LampChoice
  | .green => .green
  | .amber => .amber
  | .red => .red

end Sys2Proof.Machine
end

