-- ==== Sys2Proof/Machine/Pages.lean ====
section
/-! DEFINITION. The page store: the 256 bytes of a page, what a page is judged to be from them, and the changes
of a page (R177, R178, R181). -/
namespace Sys2Proof.Machine

/-! ### Contents (Table 10-1, R178) -/

/-- The identity fields of page 0 (R178). -/
def Identity.chars (d : Identity) : List Byte :=
  write2 0x0B71 ++ write2 0x0416 ++ [d.revision] ++ write4 d.serial.toNat ++ write1 4 ++ write1 16 ++ write1 12 ++
  write1 4 ++ write3 1048576 ++ write1 32 ++ write1 8

/-- The contents of page 1 (R178, R180). -/
def Defaults.chars (d : Defaults) : List Byte :=
  binChars d.bins ++ d.lampTable.chars ++ (tabList d.lines).flatMap LineSettings.chars ++
  [flagChar d.alertEnable] ++ d.profile.image

/-- The identity that contents hold, where they are identity fields with the figures of this part (R178). -/
def storedIdentity (bs : List Byte) : Option Identity :=
  let d : Identity := ⟨charAt bs 4, BitVec.ofNat 32 (read4 bs 5)⟩
  if bs.take 18 = d.chars then some d else none

/-- The profile that contents hold, where they are a profile in range and consistent (R87, R88). -/
def storedProfile (bs : List Byte) : Option Profile :=
  let p := readProfile bs 0
  if p.accepted then some p else none

/-- The line settings at `o` are in range (R161). -/
def lineOk (bs : List Byte) (o : Nat) : Bool := read2 bs o ≤ 4095 && read1 bs (o + 2) ≤ 1 && read1 bs (o + 4) ≤ 31

/-- Where each port's line settings stand in page 1 (R178). -/
def lineAt (p : PortId) : Nat := 74 + 5 * p.val

/-- The power-up defaults that contents hold, where every field is in range (R178). -/
def storedDefaults (bs : List Byte) : Option Defaults :=
  match readLampTable (bs.drop 64), storedProfile (bs.drop 95) with
  | some lamps, some prof =>
    if binCodesOk (bs.take 64) ∧ portIds.all (fun p => lineOk bs (lineAt p)) ∧ read1 bs 94 ≤ 1 then
      some ⟨readBins bs, lamps, Vector.ofFn fun p : PortId => readLine bs (lineAt p), read1 bs 94 == 1, prof⟩
    else none
  | _, _ => none

/-! ### Bytes (R177; log 19) -/

/-- The 255 bytes before the check: contents, then bytes the spec does not give (log 19). -/
def pageBody (contents : List Byte) : List Byte :=
  (contents ++ (List.range 255).map fun k => Config.pageFill (contents.length + k)).take 255

theorem pageBody_length (contents : List Byte) : (pageBody contents).length = 255 := by
  rw [pageBody, List.length_take, List.length_append, List.length_map, List.length_range]
  omega

/-- The 256 bytes composed for contents: the contents and a check over them (R177, R180). -/
def pageImage (contents : List Byte) : Vector Byte 256 :=
  ⟨⟨pageBody contents ++ [Config.pageCheck (pageBody contents)]⟩, by rw [List.size_toArray, List.length_append, pageBody_length]; rfl⟩

/-- A page that holds bytes programmed. -/
def PageBytes.written (bytes : Vector Byte 256) : PageBytes := tabMap StoredByte.value bytes

/-- A page whose every byte was left undetermined (R181). -/
def PageBytes.lost : PageBytes := Vector.replicate 256 .lost

/-- The bytes of page 0, fixed at manufacture (R177, R178). -/
def Identity.page (d : Identity) : PageBytes := PageBytes.written (pageImage d.chars)

/-- A byte is erased. -/
def StoredByte.isErased : StoredByte → Bool
  | .erased => true
  | .value _ => false
  | .lost => false

/-- The values of bytes, absent where one has none programmed. -/
def storedValues : List StoredByte → Option (List Byte)
  | [] => some []
  | .value b :: rest => (storedValues rest).map fun bs => b :: bs
  | .erased :: _ => none
  | .lost :: _ => none

/-- A page is judged from what it holds: BLANK erased throughout, VALID with contents of its kind and a check
that matches them, DAMAGED in every other case (R177). -/
def PageBytes.judge {α : Type} (contents : List Byte → Option α) (v : PageBytes) : Page α :=
  if (tabList v).all StoredByte.isErased then .blank
  else
    match storedValues (tabList v) with
    | none => .damaged
    | some bs =>
      if charAt bs 255 = Config.pageCheck (bs.take 255) then
        match contents (bs.take 255) with
        | some c => .valid c
        | none => .damaged
      else .damaged

/-! ### Pages of the state -/

/-- Page 0 as it is judged, always VALID with the identity (`State.identityPage_valid`; R177). -/
def State.identityPage (s : State) : Page Identity := s.identity.page.judge storedIdentity

/-- Page 1 as it is judged (R177). -/
def State.defaultsPage (s : State) : Page Defaults := s.page1.judge storedDefaults

/-- A profile page as it is judged (R177). -/
def State.profilePage (s : State) (i : Fin 6) : Page Profile := (tabGet s.profilePages i).judge storedProfile

/-- A page is judged BLANK. -/
def Page.isBlank {α : Type} : Page α → Bool
  | .valid _ => false
  | .blank => true
  | .damaged => false

/-- A page is judged VALID. -/
def Page.isValid {α : Type} : Page α → Bool
  | .valid _ => true
  | .blank => false
  | .damaged => false

/-- The bytes a stored page holds. -/
def State.pageBytes (s : State) : StoredPage → PageBytes
  | .defaults => s.page1
  | .profile i => tabGet s.profilePages i

/-- A stored page is BLANK (R177). -/
def State.pageBlank (s : State) : StoredPage → Bool
  | .defaults => s.defaultsPage.isBlank
  | .profile i => (s.profilePage i).isBlank

/-- A stored page is VALID (R177). -/
def State.pageValid (s : State) : StoredPage → Bool
  | .defaults => s.defaultsPage.isValid
  | .profile i => (s.profilePage i).isValid

/-- A stored page with other bytes. -/
def State.setPage (s : State) (pg : StoredPage) (v : PageBytes) : State :=
  match pg with
  | .defaults => { s with page1 := v }
  | .profile i => { s with profilePages := tabSet s.profilePages i v }

/-- A stored page left DAMAGED, with neither its old contents nor new ones (R181). -/
def State.damagePage (s : State) (pg : StoredPage) : State := s.setPage pg PageBytes.lost

/-- The page a job works on. -/
def PageJob.page : PageJob → StoredPage
  | .erase pg => pg
  | .program pg _ => pg

/-- The milliseconds a job takes (R181). -/
def PageJob.duration : PageJob → Nat
  | .erase _ => 20
  | .program _ _ => 8

/-- What a job is to leave in its page (R181). -/
def PageJob.target : PageJob → PageBytes
  | .erase _ => PageBytes.erased
  | .program _ bytes => PageBytes.written bytes

/-- The verify at a completion: an erased page is BLANK; a programmed one holds the bytes composed and is
VALID (R181). -/
def State.verifies (s : State) : PageJob → Bool
  | .erase pg => s.pageBlank pg
  | .program pg bytes => s.pageBytes pg == PageBytes.written bytes && s.pageValid pg

end Sys2Proof.Machine
end

