-- ==== Sys2Proof/Machine/Ops.lean ====
section
/-! DEFINITION. The named operations over the state: the map store, handles, notices, outbound queues, HELD,
the lamps, entering CLOSED, the lot table, voiding and the loss of a head. -/
namespace Sys2Proof.Machine

/-! ### The map store (sections 1.2 and 1.3) -/

/-- The cells of the store (R5). -/
def storeCells : Nat := 1048576

/-- The byte of the cell at an address: 0x00, an untested cell, where nothing is listed (R11; log 15). -/
def mapRead (a : Nat) : List Host.Cell → Byte
  | [] => 0
  | c :: m => if c.1 = a then c.2 else mapRead a m

/-- Write the cell at an address, keeping the addresses rising and no untested cell listed. -/
def mapWrite (a : Nat) (v : Byte) : List Host.Cell → List Host.Cell
  | [] => if v = 0 then [] else [(a, v)]
  | c :: m =>
    if a < c.1 then (if v = 0 then c :: m else (a, v) :: c :: m)
    else if a = c.1 then (if v = 0 then m else (a, v) :: m)
    else c :: mapWrite a v m

/-- Set every cell of a span to untested (R9). -/
def mapClear (base size : Nat) (m : List Host.Cell) : List Host.Cell :=
  m.filter fun c => !(base ≤ c.1 && c.1 < base + size)

/-- The canonical form: addresses strictly rising and within the store, no untested cell listed. -/
abbrev mapWf (m : List Host.Cell) : Prop :=
  m.Pairwise (fun c d => c.1 < d.1) ∧ ∀ c ∈ m, c.1 < storeCells ∧ c.2 ≠ 0

/-- The cell of the die at a column and row of a wafer (R6). -/
def Wafer.cellAddress (w : Wafer) (column row : Nat) : Nat := w.base + row * w.columns + column

/-! ### Reading and writing the records -/

/-- A head port. -/
def State.port (s : State) (p : PortId) : Port := tabGet s.ports p

/-- Change a head port. -/
def State.withPort (s : State) (p : PortId) (f : Port → Port) : State :=
  { s with ports := tabModify s.ports p f }

/-- The record of an occupied slot. -/
def State.waferAt (s : State) (i : SlotId) : Option Wafer := (tabGet s.slots i).wafer

/-- Change the record of an occupied slot; a FREE slot stays FREE. -/
def State.withWafer (s : State) (i : SlotId) (f : Wafer → Wafer) : State :=
  { s with slots := tabModify s.slots i fun sl => { sl with wafer := sl.wafer.map f } }

/-- The class of a bin (R1). -/
def State.binClass (s : State) (b : Bin) : BinClass := tabGet s.bins b

/-- The value of a handle: generation × 16 + slot index (Introduction, R19). -/
def mkHandle (i : SlotId) (g : BitVec 4) : Byte := BitVec.ofNat 8 (g.toNat * 16 + i.val)

/-- The handle of the wafer in a slot. -/
def State.handleOf (s : State) (i : SlotId) : Byte := mkHandle i (tabGet s.slots i).generation

/-- The slot a handle names: index 0 to 11, occupied, and of the handle's generation (R19). -/
def State.resolve (s : State) (h : Byte) : Option SlotId :=
  if hi : h.toNat % 16 < 12 then
    let i : SlotId := ⟨h.toNat % 16, hi⟩
    if (s.waferAt i).isSome ∧ (tabGet s.slots i).generation.toNat = h.toNat / 16 then some i else none
  else none

/-! ### Notices (R170) -/

/-- Queue a notice, or drop it and set the overflow flag where 32 are held (R170). -/
def State.notify (s : State) (n : Notice) : State :=
  if s.notices.length < 32 then { s with notices := s.notices ++ [n] } else { s with overflow := true }

/-- The ALERT line (R172). -/
def State.alert (s : State) : Bool := s.alertEnable && !s.notices.isEmpty

/-! ### Outbound queues (R149) -/

/-- A frame is a HOLD or a PROCEED. -/
def HeadOut.isHoldFrame : HeadOut → Bool
  | .hold _ _ => true
  | .proceed _ => true
  | _ => false

/-- A frame is an ASSIGN naming a handle. -/
def HeadOut.assigns (h : Byte) : HeadOut → Bool
  | .assign h' _ _ _ _ _ => h' == h
  | _ => false

/-- A frame joins an outbound queue: a HOLD or PROCEED takes an earlier one out (rule 1), a CANCEL
takes out a waiting ASSIGN of its wafer and is dropped with it (rule 2), any other goes to the
back (R149). -/
def joinOutbound (q : List HeadOut) (f : HeadOut) : List HeadOut :=
  match f with
  | .hold _ _ => q.filter (fun g => !g.isHoldFrame) ++ [f]
  | .proceed _ => q.filter (fun g => !g.isHoldFrame) ++ [f]
  | .cancel h => if q.any (HeadOut.assigns h) then q.filter (fun g => !g.assigns h) else q ++ [f]
  | _ => q ++ [f]

/-- Queue a frame to a head. -/
def State.queueOut (s : State) (p : PortId) (f : HeadOut) : State :=
  s.withPort p fun q => { q with outbound := joinOutbound q.outbound f }

/-- Queue a frame to a head only while its session is UP (R124, R32). -/
def State.queueOutIfUp (s : State) (p : PortId) (f : HeadOut) : State :=
  if (s.port p).session = .up then s.queueOut p f else s

/-- Take a waiting ASSIGN of a wafer out of the outbound queue (R149 rule 3). -/
def State.dropAssign (s : State) (p : PortId) (h : Byte) : State :=
  s.withPort p fun q => { q with outbound := q.outbound.filter fun g => !g.assigns h }

/-! ### The lamps (section 6.6) -/

/-- Some occupied slot's record satisfies `f`. -/
def State.someWafer (s : State) (f : Wafer → Bool) : Bool := (tabList s.slots).any fun sl => sl.wafer.any f

/-- The lamp conditions in rank order, each with whether it is active and its lamp table entry
(Table 6-4, R126). -/
def State.conditions (s : State) : List (Bool × LampEntry) :=
  [((tabList s.ports).any (·.held), s.lampTable.hold),
   (s.someWafer (fun w => w.state.isBound && w.boundPort.isSome && w.warns), s.lampTable.warn),
   ((tabList s.ports).any (fun q => match q.session with | .lost _ => true | _ => false),
     s.lampTable.lost),
   (s.someWafer (fun w => w.state == .active), s.lampTable.probing),
   (!s.someWafer (fun w => w.state.isBound && w.boundPort.isSome), s.lampTable.idle)]

/-- The pattern a lamp is to show: that of the highest-ranked active condition assigned to it, or dark
(R127). -/
def State.lampPattern (s : State) (l : Lamp) : Option Pattern :=
  (s.conditions.find? fun c => c.1 && c.2.lamp == lampChoice l).map fun c => c.2.pattern

/-- Derive the three lamps again; a lamp whose shown pattern changes restarts its phase (R127, R128). Every
change of HELD and every event of R126's list ends with it, also inside a longer event (log 10). -/
def State.settleLamps (s : State) : State :=
  { s with lamps := ⟨s.lamps.green.show (s.lampPattern .green), s.lamps.amber.show (s.lampPattern .amber),
      s.lamps.red.show (s.lampPattern .red)⟩ }

/-! ### HELD (section 6.5) -/

/-- Some wafer bound to the port has a record RAISED at HOLD without acknowledgement (R121). -/
def State.heldBy (s : State) (p : PortId) : Bool :=
  (tabList s.slots).any fun sl => sl.wafer.any fun w => w.boundTo p && w.holds

/-- The first record of the named wafer that holds its head (R122). -/
def State.firstHoldOf (s : State) (h : Byte) : Source :=
  match (s.resolve h).bind s.waferAt with
  | some w => w.firstHold
  | none => yieldSource

/-- The port becomes HELD: HOLD frame, HOLD line, HOLD_ON notice, in this order (R122, R124). -/
def State.holdPort (s : State) (p : PortId) (h : Byte) (src : Source) : State :=
  ((s.queueOutIfUp p (.hold h src)).withPort p fun q => { q with held := true }).notify (.holdOn p h src)

/-- The port stops being HELD: PROCEED frame, HOLD line, HOLD_OFF notice, in this order (R123, R124). -/
def State.freePort (s : State) (p : PortId) (h : Byte) : State :=
  ((s.queueOutIfUp p (.proceed h)).withPort p fun q => { q with held := false }).notify (.holdOff p h)

/-- Judge a port's HELD state again: nothing where it is unchanged; where it changes, the effects of R122
or R123, and the lamps follow. `h` is the wafer whose event it is, and `src` the record that raised the hold, absent
for a binding, where the wafer's first holding record is named (R121, R122). -/
def State.judgeHeld (s : State) (p : PortId) (h : Byte) (src : Option Source) : State :=
  if s.heldBy p = (s.port p).held then s
  else (if s.heldBy p then s.holdPort p h (src.getD (s.firstHoldOf h)) else s.freePort p h).settleLamps

/-- Judge the port of a bound-port field, where there is one. -/
def State.judgeBound (s : State) (p : Option PortId) (h : Byte) (src : Option Source) : State :=
  match p with
  | some p => s.judgeHeld p h src
  | none => s

/-! ### The lot table (Chapter 7) -/

/-- Add a closing wafer's counts to a lot entry (R133). -/
def Lot.rollUp (l : Lot) (w : Wafer) : Lot :=
  { l with closed := bump l.closed, tested := satAdd l.tested w.tested, pass := satAdd l.pass w.passDies
           bins := Vector.ofFn fun b => satAdd l.bins[b.val] w.bins[b.val] }

/-- The judgement of the lot floor is made: the floor is on and something was tested (R134). -/
def Lot.judged (l : Lot) (floor : Nat) : Bool := floor != 0 && l.tested != 0

/-- The lot yield lies below the floor (R134). -/
def Lot.isLow (l : Lot) (floor : Nat) : Bool := decide (perMille l.pass l.tested < floor)

/-- Roll a closing wafer into its lot entry and judge the lot floor of its active profile, queuing a
LOT_LOW notice where it falls below and low-reported is clear (R133, R134). -/
def State.rollUp (s : State) (w : Wafer) (p : Option PortId) (h : Byte) : State :=
  match w.lotEntry with
  | none => s
  | some l =>
    match tabGet s.lots l with
    | none => s
    | some lot =>
      let lot' := lot.rollUp w
      let floor := w.active.lotFloor
      if lot'.judged floor = false then { s with lots := tabSet s.lots l (some lot') }
      else
        let s' := { s with lots := tabSet s.lots l (some { lot' with lowReported := lot'.isLow floor }) }
        if lot'.isLow floor && !lot.lowReported then s'.notify (.lotLow p h l) else s'

/-- Count an abandoned member in its lot entry (R135). -/
def State.countAbandoned (s : State) (w : Wafer) : State :=
  match w.lotEntry with
  | none => s
  | some l =>
    { s with lots := tabModify s.lots l fun e => e.map fun lot => { lot with abandoned := bump lot.abandoned } }

/-! ### Entering CLOSED and ABANDONED (R26, R34) -/

/-- The record of a wafer as it becomes CLOSED: cause, state, unbound, staged profile dropped (R26,
steps 1 to 3). -/
def Wafer.close (w : Wafer) (cause : CloseCause) : Wafer :=
  { w with closeCause := some cause, state := .closed, boundPort := none, staged := none }

/-- The record of a wafer as it becomes ABANDONED (R34, steps 1 to 3). -/
def Wafer.abandon (w : Wafer) : Wafer :=
  { w with state := .abandoned, boundPort := none, staged := none }

/-- A wafer stops being bound to a port: a waiting ASSIGN naming it is taken out (R149 rule 3). -/
def State.dropAssignAt (s : State) (p : Option PortId) (h : Byte) : State :=
  match p with
  | some p => s.dropAssign p h
  | none => s

/-- The wafer in a slot enters CLOSED (R26): its record, the WAFER_CLOSED notice, the lot, then HELD
of the port that was bound, and the lamps follow the unbinding (R126). -/
def State.enterClosed (s : State) (i : SlotId) (cause : CloseCause) : State :=
  match s.waferAt i with
  | none => s
  | some w =>
    let h := s.handleOf i
    let p := w.boundPort
    (((((s.withWafer i (·.close cause)).dropAssignAt p h).notify (.waferClosed p h cause)).rollUp w p h).judgeBound
      p h none).settleLamps

/-- The wafer in a slot enters ABANDONED (R34), and the lamps follow the unbinding (R126). -/
def State.enterAbandoned (s : State) (i : SlotId) : State :=
  match s.waferAt i with
  | none => s
  | some w =>
    let h := s.handleOf i
    let p := w.boundPort
    ((((s.withWafer i Wafer.abandon).dropAssignAt p h).countAbandoned w).judgeBound p h none).settleLamps

/-! ### Touchdown lists and voiding (section 3.6) -/

/-- Replace a head's touchdown list. -/
def State.setTouchdowns (s : State) (p : PortId) (es : List Entry) : State :=
  s.withPort p fun q => { q with touchdowns := es }

/-- Count one voided entry against the wafer it names (R60, R61). -/
def State.countVoided (s : State) (e : Entry) : State :=
  match s.resolve e.handle with
  | some i => s.withWafer i fun w => { w with touchdownsVoided := bump w.touchdownsVoided }
  | none => s

/-- Void every entry of a head's list, front to back (R60). -/
def State.voidAll (s : State) (p : PortId) : State :=
  ((s.port p).touchdowns.foldl State.countVoided s).setTouchdowns p []

/-! ### Silence timers (R155) -/

/-- A timer's period in milliseconds (R155). -/
def LineSettings.periodMs (l : LineSettings) : Nat :=
  match l.units with
  | .tenMs => l.count.toNat * 10
  | .oneS => l.count.toNat * 1000

/-- The silence timer loaded with a full period; stopped where the count is 0 (R155). -/
def LineSettings.loaded (l : LineSettings) : Option Nat := if l.count = 0 then none else some l.periodMs

/-! ### The loss of a head (section 8.7) -/

/-- A DRAINING wafer bound to the port closes with cause HEAD_LOST (R28 step 2). -/
def State.closeIfDraining (p : PortId) (s : State) (i : SlotId) : State :=
  match s.waferAt i with
  | some w => if w.state = .draining ∧ w.boundPort = some p then s.enterClosed i .headLost else s
  | none => s

/-- An ACTIVE wafer bound to the port becomes SUSPENDED, with its notice (R28 step 3). -/
def State.suspendIfActive (p : PortId) (s : State) (i : SlotId) : State :=
  match s.waferAt i with
  | some w =>
    if w.state = .active ∧ w.boundPort = some p then
      (s.withWafer i fun w => { w with state := .suspended }).notify (.waferSuspended p (s.handleOf i))
    else s
  | none => s

/-- The port after steps 3 and 4 of a loss: session, timer, queues, RDY-out; a port that becomes
DISABLED stops its transmitter and resets its receiver (R158). -/
def Port.endSession (cause : LossCause) (q : Port) : Port :=
  match cause with
  | .disabled => { q with session := .disabled, silence := none, intake := [], outbound := [], rdyOut := false
                          sending := none, rx := .hunt }
  | c => { q with session := .lost c, silence := none, intake := [], outbound := [], rdyOut := true }

/-- The loss of a port's head, its five steps in order, and the lamps follow (R158, R28, R60, R126). -/
def State.lose (s : State) (p : PortId) (cause : LossCause) : State :=
  let s1 := s.voidAll p
  let s2 := slotIds.foldl (State.closeIfDraining p) s1
  let s3 := slotIds.foldl (State.suspendIfActive p) s2
  ((s3.withPort p (Port.endSession cause)).notify (.headLost p cause)).settleLamps

/-! ### The host line's replies (R167, R168) -/

/-- Remove the front frame of the host intake queue (R166). -/
def State.popHost (s : State) (rest : List Frame) : State :=
  { s with host := { s.host with intake := rest, rdyOut := hostRdyAfterLeave rest.length s.host.rdyOut } }

/-- Compose the reply of the command taken (R167). -/
def State.compose (s : State) (kind : Byte) (payload : List Byte) : State :=
  { s with host := { s.host with reply := some ⟨⟨kind, payload⟩, false⟩ } }

/-- The outcome of one command inside the block that owns it: the state after it and its reply's
payload. -/
abbrev Answer := State × List Byte

/-- A refusal: the status alone, every piece of state as it was (R168). -/
def State.refuse (s : State) (st : Status) : Answer := (s, [st.code])

/-- Status OK followed by the reply's fields (R168). -/
def State.accept (s : State) (fields : List Byte) : Answer := (s, Status.ok.code :: fields)

/-- Take the command at the front of the host intake queue, where it has code `code` and no reply is
waiting or in transmission, and compose its one reply of kind code + 0x80 (R167, R168). Otherwise
there is no such command to take, and nothing changes (log 1). -/
def State.takeHost (s : State) (code : Byte) (run : State → List Byte → Answer) : State :=
  match s.host.reply, s.host.intake with
  | none, f :: rest =>
    if f.kind = code then
      let a := run (s.popHost rest) f.payload
      a.1.compose (code + 0x80) a.2
    else s
  | _, _ => s

/-- Resolve a handle for a host command, refusing an unknown one (R19). -/
def State.withHandle (s : State) (h : Byte) (k : SlotId → Wafer → Answer) : Answer :=
  match s.resolve h with
  | some i =>
    match s.waferAt i with
    | some w => k i w
    | none => s.refuse .unknownWafer
  | none => s.refuse .unknownWafer

/-- The port a port character names, absent above 3 (R160). -/
def portOf (n : Nat) : Option PortId := if h : n < 4 then some ⟨n, h⟩ else none

/-! ### Addresses of cells that exist (log 13) -/

/-- Every cell that a MAP_READ or an application could name lies in the store. -/
def State.cellsExist (s : State) : Bool :=
  (tabList s.slots).all (fun sl => sl.wafer.all fun w => w.base + w.rows * w.columns ≤ storeCells) &&
  (tabList s.ports).all fun q => q.touchdowns.all fun e =>
    match (s.resolve e.handle).bind s.waferAt with
    | some w => e.sites.all fun d => w.cellAddress d.column d.row < storeCells
    | none => true

/-- Go on to a next state, or stop with a fault where a cell that does not exist could be named. -/
def State.guardCells (s : State) (t : State) : Host.Outcome State Fault Refusal :=
  if s.cellsExist then .next t else .fault .cellAddress

end Sys2Proof.Machine
end

