-- ==== Sys2Proof/Machine/Apply.lean ====
section
/-! DEFINITION. The apply unit and the window and alarm unit: applying one sealed entry, window closes, latches
and the application pass (sections 3.5, 4.1 to 4.7, 5.2 to 5.7). -/
namespace Sys2Proof.Machine

/-! ### Giving a verdict to an alarm record (section 6.2) -/

/-- What follows a record's change: alarms-raised, the notices, the HELD judgement (R112, R113, R115,
R117). -/
def State.alarmEffects (s : State) (i : SlotId) (port : Option PortId) (h : Byte) (src : Source) :
    AlarmEvent → State
  | .none => s
  | .raised .warn =>
    (s.withWafer i fun w => { w with alarmsRaised := bump w.alarmsRaised }).notify (.alarmRaised port h src .warn)
  | .raised .hold =>
    ((s.withWafer i fun w => { w with alarmsRaised := bump w.alarmsRaised }).notify
      (.alarmRaised port h src .hold)).judgeBound port h (some src)
  | .escalated => (s.notify (.alarmRaised port h src .hold)).judgeBound port h (some src)
  | .cleared l => s.notify (.alarmCleared port h src l)

/-- A wafer with one alarm record replaced. -/
def Wafer.setAlarm (w : Wafer) (src : Source) (a : Alarm) : Wafer := { w with alarms := tabSet w.alarms src a }

/-- A verdict is given to a record of the wafer in a slot, under the active profile, and the lamps follow
the record's transition (R111, R116, R126). -/
def State.giveVerdict (i : SlotId) (s : State) (sv : Source × Verdict) : State :=
  match s.waferAt i with
  | none => s
  | some w =>
    let r := alarmStep (raiseDebounceOf w.active sv.1) w.active.clearDebounce (tabGet w.alarms sv.1) sv.2
    ((s.withWafer i fun w => w.setAlarm sv.1 r.1).alarmEffects i w.boundPort (s.handleOf i) sv.1 r.2).settleLamps

/-! ### Window closes and latches (sections 5.2 and 5.7) -/

/-- An empty window (R22, R92). -/
def Window.empty : Window where
  count := 0
  pass := 0
  fail := 0
  siteResults := Vector.replicate 16 0
  siteFails := Vector.replicate 16 0
  watched := Vector.replicate 8 0

/-- The places of the BIN alarms at or beyond a watched count (R105 step 2). -/
def surplusBins (n : Nat) : List (Fin 8) := watchedIds.filter fun i => n ≤ i.val

/-- The record with the surplus BIN alarms set to CLEAR (R105 step 2). -/
def Wafer.clearSurplus (w : Wafer) (n : Nat) : Wafer :=
  { w with alarms := (surplusBins n).foldl (fun v i => tabSet v (binSource i) Alarm.cleared) w.alarms }

/-- Latch the staged profile, where there is one: it becomes active with its source, surplus BIN alarms are
set to CLEAR, the port is judged again where one of them held the head, and the lamps follow (R105, R126).
The source of a profile that LIMITS_STAGE carried stays 0xFE as the active one's (log 26). -/
def State.latch (s : State) (i : SlotId) : State :=
  match s.waferAt i with
  | none => s
  | some w =>
    match w.staged with
    | none => s
    | some st =>
      let n := st.profile.watched.length
      let s' := s.withWafer i fun w =>
        { w.clearSurplus n with active := st.profile, activeSource := st.source, staged := none }
      if (surplusBins n).any fun j => (tabGet w.alarms (binSource j)).holds then
        (s'.judgeBound w.boundPort (s.handleOf i) none).settleLamps
      else s'.settleLamps

/-- The window of the wafer in a slot closes: verdicts, latch, windows-closed, clearing (R93). -/
def State.closeWindow (s : State) (i : SlotId) : State :=
  match s.waferAt i with
  | none => s
  | some w =>
    let vs := closingVerdicts w.active w.window (tabGet w.alarms yieldSource)
    ((vs.foldl (State.giveVerdict i) s).latch i).withWafer i fun w =>
      { w with windowsClosed := bump w.windowsClosed, window := Window.empty }

/-! ### Feeding an applied result (section 4.6) -/

/-- The window and its site statistics fed with a result of bin `r` and class `c` under site `n`
(R79, R80). -/
def Window.feed (w : Window) (watched : List Watched) (n : SiteId) (r : Bin) (c : BinClass) : Window where
  count := w.count + 1
  pass := if c = .pass then w.pass + 1 else w.pass
  fail := if c = .fail then w.fail + 1 else w.fail
  siteResults := tabModify w.siteResults n (· + 1)
  siteFails := if c = .fail then tabModify w.siteFails n (· + 1) else w.siteFails
  watched := Vector.ofFn fun i =>
    if (watched[i.val]?).any (fun e => e.bin == r.val) then w.watched[i.val] + 1 else w.watched[i.val]

/-- The current run after a result of class `c` (R81). -/
def runAfter (run : Nat) (c : BinClass) : Nat :=
  match c with
  | .fail => bump run
  | .pass => 0
  | .unused => run

/-- Steps 1 to 3 of R78 and the run of step 4: the counters, the window, the site statistics, the
run. -/
def Wafer.feed (w : Wafer) (retest : Bool) (n : SiteId) (r : Bin) (c : BinClass) : Wafer :=
  { w with resultsApplied := bump w.resultsApplied
           retestResults := if retest then bump w.retestResults else w.retestResults
           window := w.window.feed w.active.watched n r c
           run := runAfter w.run c }

/-- The window count of the wafer in a slot equals its active window length (R78 step 5). -/
def State.windowFull (s : State) (i : SlotId) : Bool :=
  (s.waferAt i).any fun w => w.window.count == w.active.window

/-- Step 4 of R78: the RUN verdict of the current run is given (R81). -/
def State.runDetect (s : State) (i : SlotId) : State :=
  match s.waferAt i with
  | some w => s.giveVerdict i (runSource, runVerdict w.active w.run)
  | none => s

/-- Step 5 of R78: a full window closes (R82). -/
def State.closeIfFull (s : State) (i : SlotId) : State := if s.windowFull i then s.closeWindow i else s

/-- Feed an applied result: counters, window, site statistics, run and RUN verdict, window close, in
the order of R78. -/
def State.feedResult (s : State) (i : SlotId) (retest : Bool) (n : SiteId) (r : Bin) : State :=
  ((s.withWafer i fun w => w.feed retest n r (s.binClass r)).runDetect i).closeIfFull i

/-! ### One site (sections 4.2 to 4.5) -/

/-- The better of a cell's bin and a result's bin: PASS over FAIL, then the lower code (R75). -/
def betterBin (cls : Bin → BinClass) (b r : Bin) : Bin :=
  if cls b = .pass ∧ cls r ≠ .pass then b
  else if cls r = .pass ∧ cls b ≠ .pass then r
  else if r.val < b.val then r else b

/-- The kept bin of a retest (R73, R74, R75). -/
def keptBin (pol : Policy) (cls : Bin → BinClass) (b r : Bin) : Bin :=
  match pol with
  | .first => b
  | .last => r
  | .best => betterBin cls b r

/-- The counters of a first test of bin `r` and class `c` (R71). -/
def Wafer.firstTest (w : Wafer) (r : Bin) (c : BinClass) : Wafer :=
  { w with bins := tabModify w.bins r (· + 1)
           tested := w.tested + 1
           passDies := if c = .pass then w.passDies + 1 else w.passDies
           failDies := if c = .fail then w.failDies + 1 else w.failDies }

/-- The counters of a retest that moves a die from bin `b` to bin `k` (R76). -/
def Wafer.retest (w : Wafer) (cls : Bin → BinClass) (b k : Bin) : Wafer :=
  if k = b then w
  else
    let w' := { w with bins := tabModify (tabModify w.bins b (· - 1)) k (· + 1) }
    match cls b, cls k with
    | .fail, .pass => { w' with failDies := w.failDies - 1, passDies := w.passDies + 1 }
    | .pass, .fail => { w' with passDies := w.passDies - 1, failDies := w.failDies + 1 }
    | _, _ => w'

/-- Apply one site of an entry to the wafer in a slot: missing, skipped, first test, retest or excess
by its result and its die's cell (R68 to R77). -/
def State.applySite (i : SlotId) (s : State) (d : SiteEntry) : State :=
  match s.waferAt i with
  | none => s
  | some w =>
    match d.result with
    | none => s.withWafer i fun w => { w with missingSites := bump w.missingSites }
    | some r =>
      if r = 0 then s.withWafer i fun w => { w with skippedSites := bump w.skippedSites }
      else
        let a := w.cellAddress d.column d.row
        let c := mapRead a s.map
        if cellCount c = 0 then
          ({ s with map := mapWrite a (mkCell 1 r) s.map }.withWafer i
            fun w => w.firstTest r (s.binClass r)).feedResult i false d.number r
        else if cellCount c = 3 then
          s.withWafer i fun w => { w with excessResults := bump w.excessResults }
        else
          let k := keptBin w.policy s.binClass (cellBin c) r
          ({ s with map := mapWrite a (mkCell (cellCount c + 1) k) s.map }.withWafer i
            fun w => w.retest s.binClass (cellBin c) k).feedResult i true d.number r

/-! ### One entry and the pass (sections 3.5 and 4.7) -/

/-- The sites of an entry in ascending site number (R68). -/
def Entry.ascending (e : Entry) : List SiteEntry :=
  siteIds.flatMap fun n => e.sites.filter fun d => d.number = n

/-- Apply an entry: every site in turn, then the map revision and touchdowns-applied (R67, R83). An
entry that names no wafer writes nothing; no run has one (R42; log 14). -/
def State.applyEntry (s : State) (e : Entry) : State :=
  match s.resolve e.handle with
  | none => s
  | some i =>
    (e.ascending.foldl (State.applySite i) s).withWafer i fun w =>
      { w with revision := w.revision + 1, touchdownsApplied := bump w.touchdownsApplied }

/-- Step 3 of the pass: a DRAINING wafer with no entry left in the list closes with cause UNLOADED
(R56, R25). -/
def State.drainClose (s : State) (h : Byte) (rest : List Entry) : State :=
  match s.resolve h with
  | none => s
  | some i =>
    match s.waferAt i with
    | none => s
    | some w =>
      if w.state = .draining ∧ rest.all (fun e => e.handle != h) then s.enterClosed i .unloaded else s

/-- The application pass over a head's list: apply and remove the front as long as it is SEALED
(R55, R56). The list given is the head's list as it stands. -/
def State.pass (p : PortId) : List Entry → State → State
  | [], s => s
  | e :: rest, s =>
    if e.state = .isSealed then
      State.pass p rest (((s.applyEntry e).setTouchdowns p rest).drainClose e.handle rest)
    else s

/-- The pass over a head's list as it stands. -/
def State.runPass (s : State) (p : PortId) : State := s.pass p (s.port p).touchdowns

/-! ### Ending a wafer's touchdowns by the host (R61) -/

/-- Void every entry of a head's list that names a wafer, counting each, and run the pass where the
front was among them (R61). -/
def State.voidWafer (s : State) (p : PortId) (i : SlotId) (h : Byte) : State :=
  let es := (s.port p).touchdowns
  let gone := es.filter fun e => e.handle == h
  let kept := es.filter fun e => e.handle != h
  let s1 := (s.withWafer i fun w => { w with touchdownsVoided := satAdd w.touchdownsVoided gone.length }).setTouchdowns
    p kept
  if es.head?.any fun e => e.handle == h then s1.runPass p else s1

end Sys2Proof.Machine
end

