-- ==== Sys2Proof/Machine/HeadLine.lean ====
section
/-! DEFINITION. The head lines: receiver, breaks, intake queue and transmitter (sections 8.1 to 8.3). -/
namespace Sys2Proof.Machine

/-! ### The receiver, of a head port and of the host line (R141, R142) -/

/-- What a character made of the frame in progress. -/
inductive RxEvent where
  | quiet
  | discarded
  | good (f : Frame)
deriving DecidableEq, Repr

/-- A frame is in progress: the receiver is in LENGTH, PAYLOAD or CHECK. -/
def Receiver.busy : Receiver → Bool
  | .hunt => false
  | .length _ => true
  | .payload _ _ _ => true
  | .check _ _ => true

/-- An unmarked character with a high stop bit (R141, right column, and R142). -/
def Receiver.unmarked (r : Receiver) (v : Byte) : Receiver × RxEvent :=
  match r with
  | .hunt => (.hunt, .quiet)
  | .length k =>
    if v = 0 then (.check k [], .quiet)
    else if v.toNat ≤ 250 then (.payload k v.toNat [], .quiet)
    else (.hunt, .discarded)
  | .payload k n got =>
    if (got ++ [v]).length = n then (.check k (got ++ [v]), .quiet) else (.payload k n (got ++ [v]), .quiet)
  | .check k got => if v = frameCheck k got then (.hunt, .good ⟨k, got⟩) else (.hunt, .discarded)

/-- One character: a low stop bit is a framing error, a mark begins a frame and is a framing fault
inside one, any other goes by the receiver's state (R141). -/
def Receiver.char (r : Receiver) (c : RxChar) : Receiver × RxEvent :=
  if c.stopHigh = false then (.hunt, if r.busy then .discarded else .quiet)
  else if c.mark then (.length c.value, if r.busy then .discarded else .quiet)
  else r.unmarked c.value

/-! ### The intake queue and the link counters (R145, R147) -/

/-- A good frame is offered to a head port's intake queue: it joins, or is an overrun with its fault
report (R145, R147). -/
def State.offer (s : State) (p : PortId) (f : Frame) : State :=
  let q := s.port p
  if q.intake.length < 8 then
    s.withPort p fun q =>
      { q with intake := q.intake ++ [f], rdyOut := rdyAfterJoin (q.intake.length + 1) q.rdyOut }
  else
    let s1 := s.withPort p fun q => { q with overruns := bump q.overruns, faultReported := true }
    if q.faultReported then s1 else s1.notify (.linkFault p)

/-- Raise frames-discarded of a head port (R147). -/
def State.countDiscard (s : State) (p : PortId) : State :=
  s.withPort p fun q => { q with discarded := bump q.discarded }

/-- What a received character's event does at a head port. -/
def State.rxEffect (s : State) (p : PortId) : RxEvent → State
  | .quiet => s
  | .discarded => s.countDiscard p
  | .good f => s.offer p f

/-- One character arrives at a head port. A disabled port's receiver ignores its line (R140), and none
takes a character while its line has not returned high (R141, R143). -/
def State.headChar (p : PortId) (s : State) (c : RxChar) : State :=
  let q := s.port p
  if q.session = .disabled ∨ q.line ≠ .high then s
  else
    let r := q.rx.char c
    (s.withPort p fun q =>
      { q with rx := r.1, line := if c.stopHigh then .high else .low }).rxEffect p r.2

/-- HEAD_FRAME_RECEIVED: the characters of a frame arrive one after another (R141, R142, R145). -/
def execHeadFrameReceived (p : PortId) (cs : List RxChar) (s : State) : Host.Outcome State Fault Refusal :=
  .next (cs.foldl (State.headChar p) s)

/-- FRAMING_ERROR: a character with a low stop bit, or a length of 251 to 255, arrives (R141). -/
def execFramingError (p : PortId) (c : RxChar) (s : State) : Host.Outcome State Fault Refusal :=
  .next (s.headChar p c)

/-! ### Breaks (R143, R144) -/

/-- The effect of the 22nd low bit-time: a frame in progress is discarded and counted, the receiver
returns to HUNT (R143). Nothing once it has been taken since the line was last high. -/
def State.shortBreak (s : State) (p : PortId) : State :=
  let q := s.port p
  match q.line with
  | .shortTaken => s
  | .longTaken => s
  | _ =>
    let s1 := s.withPort p fun q => { q with rx := .hunt, line := .shortTaken }
    if q.rx.busy then s1.countDiscard p else s1

/-- SHORT_BREAK (R143). -/
def execShortBreak (p : PortId) (s : State) : Host.Outcome State Fault Refusal := .next (s.shortBreak p)

/-- LONG_BREAK: the effect of R143 where it has not been taken yet, then, on an UP port, the loss of
the head with cause BREAK; at most once before the line returns high (R144; log 12). -/
def State.longBreak (s : State) (p : PortId) : State :=
  if (s.port p).line = .longTaken then s
  else
    let s1 := (s.shortBreak p).withPort p fun q => { q with line := .longTaken }
    if (s1.port p).session = .up then s1.lose p .brk else s1

/-- LONG_BREAK (R144). -/
def execLongBreak (p : PortId) (s : State) : Host.Outcome State Fault Refusal := .next (s.longBreak p)

/-- BREAK_END: the receive line returns high (R141, R143, R144). -/
def execBreakEnd (p : PortId) (s : State) : Host.Outcome State Fault Refusal :=
  .next (s.withPort p fun q => { q with line := .high })

/-! ### The transmitter (R140, R146) -/

/-- An idle transmitter begins the front frame of the outbound queue while RDY-in is asserted, at the
port's rate; a disabled port's sends nothing (R140, R146). -/
def Port.beginSend (q : Port) : Port :=
  match q.sending, q.outbound with
  | none, f :: rest =>
    if q.rdyIn ∧ q.session ≠ .disabled then
      { q with outbound := rest, sending := some ⟨f, q.settings.divisor⟩ }
    else q
  | _, _ => q

/-- HEAD_FRAME_SEND: the transmitter reads RDY-in and begins the front frame (R146; log 6); where it can begin none,
only the level it reads is kept (log 28). -/
def execHeadFrameSend (p : PortId) (rdyIn : Bool) (s : State) : Host.Outcome State Fault Refusal :=
  .next (s.withPort p fun q => { q with rdyIn := rdyIn }.beginSend)

/-- The port whose transmitter has finished its frame: idle, or begun with the next one (R146). While no frame is
in transmission the port stays as it is, its kept RDY-in too: the model's choice (log 28). -/
def Port.finishSend (q : Port) (rdyIn : Bool) : Port :=
  match q.sending with
  | none => q
  | some _ => { q with sending := none, rdyIn := rdyIn }.beginSend

/-- FRAME_FINISHED: the transmitter finishes its frame, and begins the next one only if one waits and
RDY-in is asserted (R146). -/
def execFrameFinished (p : PortId) (rdyIn : Bool) (s : State) : Host.Outcome State Fault Refusal :=
  .next (s.withPort p fun q => q.finishSend rdyIn)

end Sys2Proof.Machine
end

