-- ==== Sys2Proof/Machine/HeadFrames.lean ====
section
/-! DEFINITION. The taking of head frames: ANNOUNCE, TOUCH, SITE, LIFT, UNLOAD, BEAT and the frames of no head
frame kind (section 8.4, R152 to R154, sections 3.3 to 3.5, R24, R30). -/
namespace Sys2Proof.Machine

/-! ### Taking a frame (R148) -/

/-- The six head frame kinds (Table 8-3). -/
def kindAnnounce : Byte := 0x11
/-- TOUCH (Table 8-3). -/
def kindTouch : Byte := 0x12
/-- SITE (Table 8-3). -/
def kindSite : Byte := 0x13
/-- LIFT (Table 8-3). -/
def kindLift : Byte := 0x14
/-- UNLOAD (Table 8-3). -/
def kindUnload : Byte := 0x15
/-- BEAT (Table 8-3). -/
def kindBeat : Byte := 0x16

/-- The kind is a head frame kind (Table 8-3). -/
def isHeadKind (k : Byte) : Bool := 0x11 ≤ k.toNat && k.toNat ≤ 0x16

/-- The kind is in a reload mask; ANNOUNCE reloads whatever the mask (Table 8-5, R155). -/
def inMask (mask : BitVec 5) (k : Byte) : Bool :=
  k == kindAnnounce || (kindTouch.toNat ≤ k.toNat && mask.getLsbD (k.toNat - kindTouch.toNat))

/-- The frame a port may take: the front of its intake queue, while its outbound queue holds 2 or fewer
frames (R148) and it is not DISABLED (R151). -/
def Port.ready (q : Port) : Option (Frame × List Frame) :=
  match q.intake with
  | f :: rest => if q.outbound.length ≤ 2 ∧ q.session ≠ .disabled then some (f, rest) else none
  | [] => none

/-- Remove the front frame of a port's intake queue (R145). -/
def Port.popIntake (q : Port) (rest : List Frame) : Port :=
  { q with intake := rest, rdyOut := rdyAfterLeave rest.length q.rdyOut }

/-- The port takes a frame of a head frame kind: the queue, frames-taken, and while UP the reload of the
silence timer by the frame's kind (R145, R147, R148, R155). -/
def Port.takeFrame (q : Port) (k : Byte) (rest : List Frame) : Port :=
  let q1 := { q.popIntake rest with taken := bump q.taken }
  if q.session = .up ∧ inMask q.settings.mask k then { q1 with silence := q.settings.loaded } else q1

/-- Answer with a REFUSE (R54). -/
def State.refuseFrame (s : State) (p : PortId) (k : Byte) (r : RefuseReason) (a b : Byte) : State :=
  s.queueOut p (.refuse k r a b)

/-- Take a frame of kind `k` other than ANNOUNCE: refused with NOT_UP while the session is not UP
(R151), otherwise handed to its owner (R148). Where the port has no such frame to take, nothing
changes (log 1). -/
def State.takeHead (s : State) (p : PortId) (k : Byte) (owner : State → List Byte → State) : State :=
  match (s.port p).ready with
  | some (f, rest) =>
    if f.kind = k then
      let s1 := s.withPort p fun q => q.takeFrame k rest
      if (s.port p).session = .up then owner s1 f.payload
      else s1.refuseFrame p k .notUp (charAt f.payload 0) (charAt f.payload 1)
    else s
  | none => s

/-! ### TOUCH (section 3.3) -/

/-- A site as a TOUCH frame lists it (Table 9-6). -/
structure RawSite where
  number : Nat
  column : Nat
  row : Nat
deriving DecidableEq, Repr

/-- The site list of a TOUCH of `k` sites (Table 9-6). -/
def readSites (bs : List Byte) (k : Nat) : List RawSite :=
  (List.range k).map fun j => ⟨read1 bs (3 + 5 * j), read2 bs (4 + 5 * j), read2 bs (6 + 5 * j)⟩

/-- A TOUCH payload is well-formed in length (R45). -/
def touchLengthOk (bs : List Byte) : Bool := 3 ≤ bs.length && bs.length == 3 + 5 * read1 bs 2

/-- A list has two equal members. -/
def hasRepeat {α : Type} [DecidableEq α] : List α → Bool
  | [] => false
  | x :: xs => xs.contains x || hasRepeat xs

/-- The BAD_SITE check of a TOUCH of `k` sites against the head's maximum and the wafer's grid (R49). -/
def badSites (maxSites : Nat) (w : Wafer) (k : Nat) (ds : List RawSite) : Bool :=
  k == 0 || maxSites < k || ds.any (fun d => 15 < d.number) || hasRepeat (ds.map (·.number)) ||
    ds.any (fun d => w.columns ≤ d.column || w.rows ≤ d.row)

/-- The DUP_DIE check (R49). -/
def dupDies (ds : List RawSite) : Bool := hasRepeat (ds.map fun d => (d.column, d.row))

/-- The wafer a handle names, where it is ACTIVE and bound to the port (R47). -/
def State.activeOn (s : State) (p : PortId) (h : Byte) : Option Wafer :=
  match (s.resolve h).bind s.waferAt with
  | some w => if w.state = .active ∧ w.boundPort = some p then some w else none
  | none => none

/-- The reason of the TOUCH_ACK: the first failing check of Table 3-2 (R46 to R49). -/
def State.touchReason (s : State) (p : PortId) (h tag : Byte) (k : Nat) (ds : List RawSite) : TouchReason :=
  match s.activeOn p h with
  | none => .badWafer
  | some w =>
    if (s.port p).held then .held
    else if 4 ≤ (s.port p).touchdowns.length then .listFull
    else if (s.port p).touchdowns.any (fun e => e.tag == tag) then .dupTag
    else if badSites (s.port p).maxSites w k ds then .badSite
    else if dupDies ds then .dupDie
    else .accepted

/-- The entry of an accepted TOUCH: OPEN, every result absent (R41, R50). -/
def newEntry (h tag : Byte) (ds : List RawSite) : Entry :=
  ⟨tag, h, .isOpen, ds.map fun d => ⟨Fin.ofNat 16 d.number, d.column, d.row, none⟩⟩

/-- The pipeline judges a TOUCH (R45, R46, R50). -/
def State.touch (p : PortId) (s : State) (bs : List Byte) : State :=
  let h := charAt bs 0
  let tag := charAt bs 1
  if touchLengthOk bs = false then s.refuseFrame p kindTouch .badLength h tag
  else
    let ds := readSites bs (read1 bs 2)
    let reason := s.touchReason p h tag (read1 bs 2) ds
    let s1 := if reason = .accepted then
        s.setTouchdowns p ((s.port p).touchdowns ++ [newEntry h tag ds])
      else s
    s1.queueOut p (.touchAck h tag reason)

/-- TOUCH (R46). -/
def execTouch (p : PortId) (s : State) : Host.Outcome State Fault Refusal :=
  .next (s.takeHead p kindTouch (State.touch p))

/-! ### SITE (section 3.4) -/

/-- The entry of a list that carries a tag (R51). -/
def entryOf (es : List Entry) (tag : Byte) : Option Entry := es.find? fun e => e.tag == tag

/-- The bin of a SITE is acceptable: at most 63, and 0 or of a class other than UNUSED (R51). -/
def State.binOk (s : State) (b : Nat) : Bool :=
  b ≤ 63 && (b == 0 || s.binClass (Fin.ofNat 64 b) != .unused)

/-- The reason a SITE is refused, absent where it passes (R51). -/
def State.siteReason (s : State) (p : PortId) (tag : Byte) (n b : Nat) : Option RefuseReason :=
  match entryOf (s.port p).touchdowns tag with
  | none => some .noTouch
  | some e =>
    if e.state = .isSealed then some .isSealed
    else
      match e.sites.find? fun d => d.number.val == n with
      | none => some .notListed
      | some d =>
        if d.result.isSome then some .duplicate
        else if s.binOk b then none
        else some .badBin

/-- An entry with the result of one listed site set (R52). -/
def Entry.setResult (e : Entry) (n : Nat) (b : Bin) : Entry :=
  { e with sites := e.sites.map fun d => if d.number.val == n then { d with result := some b } else d }

/-- The pipeline judges a SITE (R51, R52). -/
def State.site (p : PortId) (s : State) (bs : List Byte) : State :=
  let tag := charAt bs 0
  if bs.length ≠ 3 then s.refuseFrame p kindSite .badLength tag (charAt bs 1)
  else
    match s.siteReason p tag (read1 bs 1) (read1 bs 2) with
    | some r => s.refuseFrame p kindSite r tag (charAt bs 1)
    | none =>
      s.setTouchdowns p ((s.port p).touchdowns.map fun e =>
        if e.tag == tag then e.setResult (read1 bs 1) (Fin.ofNat 64 (read1 bs 2)) else e)

/-- SITE (R51). -/
def execSite (p : PortId) (s : State) : Host.Outcome State Fault Refusal :=
  .next (s.takeHead p kindSite (State.site p))

/-! ### LIFT (R53, R55) -/

/-- A list with the entry of a tag sealed (R53). -/
def sealTag (es : List Entry) (tag : Byte) : List Entry :=
  es.map fun e => if e.tag == tag then { e with state := .isSealed } else e

/-- The pipeline judges a LIFT; a sealed front starts the application pass (R53, R55, R56). -/
def State.lift (p : PortId) (s : State) (bs : List Byte) : State :=
  let tag := charAt bs 0
  if bs.length ≠ 1 then s.refuseFrame p kindLift .badLength tag 0
  else
    match entryOf (s.port p).touchdowns tag with
    | none => s.refuseFrame p kindLift .noTouch tag 0
    | some e =>
      if e.state = .isSealed then s.refuseFrame p kindLift .isSealed tag 0
      else
        let s1 := s.setTouchdowns p (sealTag (s.port p).touchdowns tag)
        if (s.port p).touchdowns.head?.any fun e => e.tag == tag then s1.runPass p else s1

/-- LIFT (R53). -/
def execLift (p : PortId) (s : State) : Host.Outcome State Fault Refusal :=
  s.guardCells (s.takeHead p kindLift (State.lift p))

/-! ### UNLOAD (R24) -/

/-- Some other wafer bound to the port is DRAINING (R24 check 3). -/
def State.otherDraining (s : State) (p : PortId) (i : SlotId) : Bool :=
  slotIds.any fun j => j != i && (s.waferAt j).any fun w => w.state == .draining && w.boundPort == some p

/-- The head port judges an UNLOAD (R24, R65). -/
def State.unload (p : PortId) (s : State) (bs : List Byte) : State :=
  let h := charAt bs 0
  if bs.length ≠ 1 then s.refuseFrame p kindUnload .badLength h 0
  else
    match s.resolve h, s.activeOn p h with
    | some i, some _ =>
      if (s.port p).touchdowns.any fun e => e.handle == h then
        if s.otherDraining p i then s.refuseFrame p kindUnload .stillDraining h 0
        else (s.withWafer i fun w => { w with state := .draining }).settleLamps
      else s.enterClosed i .unloaded
    | _, _ => s.refuseFrame p kindUnload .badWafer h 0

/-- UNLOAD (R24). -/
def execUnload (p : PortId) (s : State) : Host.Outcome State Fault Refusal :=
  .next (s.takeHead p kindUnload (State.unload p))

/-! ### BEAT (R154) and frames of no head frame kind (R148) -/

/-- A BEAT does nothing beyond the reload of its taking; a payload is refused (R154). -/
def State.beat (p : PortId) (s : State) (bs : List Byte) : State :=
  if bs = [] then s else s.refuseFrame p kindBeat .badLength 0 0

/-- BEAT (R154). -/
def execBeat (p : PortId) (s : State) : Host.Outcome State Fault Refusal :=
  .next (s.takeHead p kindBeat (State.beat p))

/-- A frame of no head frame kind is discarded and counted (R148). -/
def State.nonHeadFrame (s : State) (p : PortId) : State :=
  match (s.port p).ready with
  | some (f, rest) =>
    if isHeadKind f.kind then s
    else s.withPort p fun q => { q.popIntake rest with discarded := bump q.discarded }
  | none => s

/-- NON_HEAD_FRAME (R148). -/
def execNonHeadFrame (p : PortId) (s : State) : Host.Outcome State Fault Refusal := .next (s.nonHeadFrame p)

/-! ### ANNOUNCE (R152, R30) -/

/-- An ANNOUNCE payload passes: 5 or 6 characters and a maximum site count of 1 to 16 (R152). -/
def announceOk (bs : List Byte) : Bool :=
  (bs.length == 5 || bs.length == 6) && (1 ≤ read1 bs 4 && read1 bs 4 ≤ 16)

/-- The slot an ANNOUNCE's resume handle resumes: the wafer is SUSPENDED, bound to this port, and its
head serial is the one announced (R30). -/
def State.resumable (s : State) (p : PortId) (serial : Word32) (h : Byte) : Option SlotId :=
  match s.resolve h with
  | some i =>
    if (s.waferAt i).any fun w => w.state == .suspended && w.boundPort == some p && w.serial == serial then
      some i
    else none
  | none => none

/-- Step 2 of an ANNOUNCE: UP, serial and maximum recorded, timer loaded (R152). -/
def Port.startSession (q : Port) (serial : Word32) (maxSites : Nat) : Port :=
  { q with session := .up, serial := serial, maxSites := maxSites, silence := q.settings.loaded }

/-- Step 3: the wafer resumed becomes ACTIVE, and the rebinding is reported (R30). -/
def State.resumeAt (s : State) (p : PortId) (i : SlotId) : State :=
  (s.withWafer i fun w => { w with state := .active }).judgeHeld p (s.handleOf i) none

/-- Step 6: the HOLD frame of a head that comes UP while its port is HELD names the lowest-indexed slot
among the bound wafers that hold the port, and its first holding record (R124). -/
def State.queueHoldAfterWelcome (s : State) (p : PortId) : State :=
  if (s.port p).held then
    match slotIds.find? fun i => (s.waferAt i).any fun w => w.boundTo p && w.holds with
    | some i => s.queueOut p (.hold (s.handleOf i) (s.firstHoldOf (s.handleOf i)))
    | none => s
  else s

/-- Steps 2 to 6 of an ANNOUNCE that passes (R152). -/
def State.announceUp (s : State) (p : PortId) (serial : Word32) (maxSites : Nat) (resume : Option Byte) : State :=
  let s2 := s.withPort p fun q => q.startSession serial maxSites
  let hit := resume.bind (s2.resumable p serial)
  let resumed := if hit.isSome then resume else none
  let s3 := match hit with
    | some i => s2.resumeAt p i
    | none => s2
  let s5 := (s3.notify (.headUp p resumed)).queueOut p (.welcome p (s3.port p).settings.periodMs resumed)
  (s5.queueHoldAfterWelcome p).settleLamps

/-- The port takes an ANNOUNCE: refused on its frame alone, or, after a loss with cause RESTART where
the session is UP, the new session (R152). -/
def State.announce (p : PortId) (s : State) (bs : List Byte) : State :=
  if announceOk bs = false then s.refuseFrame p kindAnnounce .badLength (charAt bs 4) 0
  else
    let s1 := if (s.port p).session = .up then s.lose p .restart else s
    s1.announceUp p (BitVec.ofNat 32 (read4 bs 0)) (read1 bs 4) (if bs.length = 6 then some (charAt bs 5) else none)

/-- Take an ANNOUNCE in any session state except DISABLED (R152; log 1). -/
def State.takeAnnounce (s : State) (p : PortId) : State :=
  match (s.port p).ready with
  | some (f, rest) =>
    if f.kind = kindAnnounce then (s.withPort p fun q => q.takeFrame kindAnnounce rest).announce p f.payload
    else s
  | none => s

/-- ANNOUNCE (R152). -/
def execAnnounce (p : PortId) (s : State) : Host.Outcome State Fault Refusal := .next (s.takeAnnounce p)

end Sys2Proof.Machine
end

