-- ==== Sys2Proof/Machine/Events.lean ====
section
/-! DEFINITION. Timer expiries, the completion of a page operation, the passing of time, power-up and pin reset
(R156, R128, R181, R182). -/
namespace Sys2Proof.Machine

/-! ### Silence (R156) -/

/-- The silence timer of an UP port expires: a loss with cause SILENCE (R156). A timer that is stopped, or that
has time left since a frame reloaded it, does not expire (R156, R157; log 3). -/
def State.silenceExpiry (s : State) (p : PortId) : State :=
  if (s.port p).session = .up ∧ (s.port p).silence = some 0 then s.lose p .silence else s

/-- SILENCE_EXPIRY (R156). -/
def execSilenceExpiry (p : PortId) (s : State) : Host.Outcome State Fault Refusal := .next (s.silenceExpiry p)

/-! ### Lamp phases (R128) -/

/-- A lamp. -/
def Lamps.get (ls : Lamps) : Lamp → LampState
  | .green => ls.green
  | .amber => ls.amber
  | .red => ls.red

/-- Change a lamp. -/
def Lamps.modify (ls : Lamps) (l : Lamp) (f : LampState → LampState) : Lamps :=
  match l with
  | .green => { ls with green := f ls.green }
  | .amber => { ls with amber := f ls.amber }
  | .red => { ls with red := f ls.red }

/-- A blinking lamp whose half has run out moves to the other half of its period; a half with time left, as of a
pattern begun since, has no expiry, and a steady or dark lamp no phase timer (R128; log 3). -/
def LampState.expire (l : LampState) : LampState :=
  match l.shown with
  | none => l
  | some .steady => l
  | some p => if l.timer = 0 then { l with lit := !l.lit, timer := p.halfMs } else l

/-- LAMP_PHASE_EXPIRY (R128). -/
def execLampPhaseExpiry (l : Lamp) (s : State) : Host.Outcome State Fault Refusal :=
  .next { s with lamps := s.lamps.modify l LampState.expire }

/-! ### Page operations (R181) -/

/-- The result of a job (Table 10-2). -/
def PageJob.result (j : PageJob) (passed : Bool) : PageResult :=
  if passed then
    match j with
    | .erase _ => .erased
    | .program _ _ => .written
  else .failed

/-- The operation in flight completes: the page holds what the operation put there, or, where the storage
failed, nothing determined; it is verified, and PAGE_DONE is queued (R181). Whether the storage failed is the
command's operand (log 4). An operation with time left does not complete (R181; log 3). -/
def State.pageDone (s : State) (stored : Bool) : State :=
  match s.pageOp with
  | none => s
  | some op =>
    if op.remaining = 0 then
      let s1 := s.setPage op.job.page (if stored then op.job.target else PageBytes.lost)
      { s1 with pageOp := none }.notify (.pageDone op.job.page.id (op.job.result (s1.verifies op.job)))
    else s

/-- PAGE_DONE (R181). -/
def execPageDone (stored : Bool) (s : State) : Host.Outcome State Fault Refusal := .next (s.pageDone stored)

/-! ### Time (log 2) -/

/-- One millisecond passes on a port's silence timer (R155). -/
def Port.tick (q : Port) : Port := { q with silence := q.silence.map (· - 1) }

/-- One millisecond passes on a lamp's phase timer (R128). -/
def LampState.tick (l : LampState) : LampState := { l with timer := l.timer - 1 }

/-- One millisecond passes on every running timer; a timer that has run out waits for its expiry
(log 2). -/
def State.tick (s : State) : State :=
  { s with
    ports := tabMap Port.tick s.ports
    lamps := ⟨s.lamps.green.tick, s.lamps.amber.tick, s.lamps.red.tick⟩
    pageOp := s.pageOp.map fun op => { op with remaining := op.remaining - 1 } }

/-! ### Power-up and pin reset (R182) -/

/-- The host line divisor of the straps; HRATE1 is the high-order strap (Table I-3). -/
def hostDivisorOf (st : Straps) : Nat :=
  match st.hrate1, st.hrate0 with
  | false, false => 2
  | false, true => 4
  | true, false => 16
  | true, true => 64

/-- The settings loaded from page 1, or the factory settings (R182). -/
def loadedDefaults : Page Defaults → Defaults
  | .valid d => d
  | .blank => ⟨factoryBins, factoryLampTable, Vector.replicate 4 factoryLine, true, factoryProfile⟩
  | .damaged => ⟨factoryBins, factoryLampTable, Vector.replicate 4 factoryLine, true, factoryProfile⟩

/-- A port at the end of a power-up or pin reset, with its loaded line settings (R165). -/
def Port.start (l : LineSettings) : Port :=
  if l.divisor = 0 then { Port.reset with settings := l }
  else { Port.reset with settings := l, session := .down, rdyOut := true }

/-- A page operation in flight ends at once and leaves its page DAMAGED (R181). -/
def State.cutShort (s : State) : State :=
  match s.pageOp with
  | none => s
  | some op => { s.damagePage op.job.page with pageOp := none }

/-- Every lamp dark, so that a first derivation starts its phase. -/
def Lamps.dark : Lamps := ⟨LampState.start none, LampState.start none, LampState.start none⟩

/-- Power-up and pin reset: the page operation is cut short, everything but the page store is at its
reset value, the settings are loaded from page 1 (R182, R11, R18, R131, R165, R166, R173). The queue
of waiting commands is not the collator's and stays (log 17). -/
def State.restart (s : State) (st : Straps) : State :=
  let s1 := s.cutShort
  let d := loadedDefaults s1.defaultsPage
  { State.reset with
    bins := d.bins
    ports := tabMap Port.start d.lines
    lampTable := d.lampTable
    lamps := Lamps.dark
    host := { HostLine.reset with divisor := hostDivisorOf st }
    alertEnable := d.alertEnable
    defaultProfile := d.profile
    identity := s1.identity
    page1 := s1.page1
    profilePages := s1.profilePages
    pending := s1.pending }.settleLamps

/-- POWER_UP (R182). -/
def execPowerUp (st : Straps) (s : State) : Host.Outcome State Fault Refusal := .next (s.restart st)

/-- PIN_RESET: the same effect as power-up (Introduction, Resets; R182). -/
def execPinReset (st : Straps) (s : State) : Host.Outcome State Fault Refusal := .next (s.restart st)

end Sys2Proof.Machine
end

