-- ==== Sys2Proof/Machine/HostLine.lean ====
section
/-! DEFINITION. The host line: receiver, breaks, replies, unknown kinds (sections 9.1 and 9.2). -/
namespace Sys2Proof.Machine

/-- A good frame joins the host intake queue, or is an overrun, which raises no notice (R166). -/
def HostLine.offer (q : HostLine) (f : Frame) : HostLine :=
  if q.intake.length < 4 then
    { q with intake := q.intake ++ [f], rdyOut := hostRdyAfterJoin (q.intake.length + 1) q.rdyOut }
  else { q with overruns := bump q.overruns }

/-- What a received character's event does at the host line (R166). -/
def HostLine.rxEffect (q : HostLine) : RxEvent → HostLine
  | .quiet => q
  | .discarded => { q with discarded := bump q.discarded }
  | .good f => q.offer f

/-- One character arrives on the host line; none is taken while the line has not returned high (R166,
R141, R143). -/
def HostLine.char (q : HostLine) (c : RxChar) : HostLine :=
  if q.line ≠ .high then q
  else
    let r := q.rx.char c
    { q with rx := r.1, line := if c.stopHigh then .high else .low }.rxEffect r.2

/-- HOST_FRAME_RECEIVED: the characters of a frame arrive one after another (R166). -/
def execHostFrameReceived (cs : List RxChar) (s : State) : Host.Outcome State Fault Refusal :=
  .next { s with host := cs.foldl HostLine.char s.host }

/-- HOST_FRAMING_ERROR: a character with a low stop bit, or a length of 251 to 255, arrives (R166). -/
def execHostFramingError (c : RxChar) (s : State) : Host.Outcome State Fault Refusal :=
  .next { s with host := s.host.char c }

/-- A break on the host line, however long, is a short break (R166, R143). -/
def HostLine.shortBreak (q : HostLine) : HostLine :=
  match q.line with
  | .shortTaken => q
  | .longTaken => q
  | _ => { q with rx := .hunt, line := .shortTaken
                  discarded := if q.rx.busy then bump q.discarded else q.discarded }

/-- HOST_SHORT_BREAK (R166). -/
def execHostShortBreak (s : State) : Host.Outcome State Fault Refusal :=
  .next { s with host := s.host.shortBreak }

/-- HOST_BREAK_END: the host receive line returns high (R166). -/
def execHostBreakEnd (s : State) : Host.Outcome State Fault Refusal :=
  .next { s with host := { s.host with line := .high } }

/-- The transmitter begins the waiting reply while RDY-in is asserted (R167); where none waits, or one is in
transmission, only the level of RDY-in is kept (log 28). -/
def HostLine.beginReply (q : HostLine) (rdyIn : Bool) : HostLine :=
  match q.reply with
  | some r => { q with rdyIn := rdyIn, reply := some { r with sending := r.sending || rdyIn } }
  | none => { q with rdyIn := rdyIn }

/-- The last character of a reply in transmission has been sent (R167); where none is in transmission, nothing
changes (log 28). -/
def HostLine.finishReply (q : HostLine) : HostLine :=
  match q.reply with
  | some r => if r.sending then { q with reply := none } else q
  | none => q

/-- A moment of a reply's transmission (R167; log 5). -/
def HostLine.send (q : HostLine) : ReplySend → HostLine
  | .started rdyIn => q.beginReply rdyIn
  | .finished => q.finishReply
  | .whole rdyIn => (q.beginReply rdyIn).finishReply

/-- HOST_REPLY_SEND (R167). -/
def execHostReplySend (e : ReplySend) (s : State) : Host.Outcome State Fault Refusal :=
  .next { s with host := s.host.send e }

/-- The command codes of Table 9-2. -/
def commandCodes : List Byte :=
  [0x40, 0x41, 0x42, 0x43, 0x44, 0x48, 0x49, 0x4A, 0x4B, 0x4C, 0x4D, 0x4E, 0x4F, 0x50, 0x51, 0x52, 0x53,
   0x54, 0x55, 0x56, 0x57, 0x58, 0x59, 0x5A, 0x5C, 0x5D, 0x5E, 0x5F]

/-- The kind of the reply to a frame of no command code: plus 0x80 below 0x80, the kind itself from
0x80 on (R168). -/
def unknownReplyKind (k : Byte) : Byte := if k.toNat < 128 then k + 0x80 else k

/-- Take the frame at the front of the host intake queue, where its kind is no command code, and answer
UNKNOWN_KIND (R168; log 1). -/
def State.unknownKind (s : State) : State :=
  match s.host.reply, s.host.intake with
  | none, f :: rest =>
    if commandCodes.contains f.kind then s
    else (s.popHost rest).compose (unknownReplyKind f.kind) [Status.unknownKind.code]
  | _, _ => s

/-- UNKNOWN_KIND (R168). -/
def execUnknownKind (s : State) : Host.Outcome State Fault Refusal := .next s.unknownKind

end Sys2Proof.Machine
end

