-- ==== Sys2Proof/Machine/HeadCommands.lean ====
section
/-! DEFINITION. The host commands for the head ports: HEAD_SET, HEAD_STATUS, HEAD_DROP (section 8.8). -/
namespace Sys2Proof.Machine

/-- The port with new timer units, count and reload mask; its divisor as it was (R162). -/
def Port.storeTimer (q : Port) (l : LineSettings) : Port :=
  { q with settings := { q.settings with units := l.units, count := l.count, mask := l.mask } }

/-- The port with a new divisor. -/
def Port.storeDivisor (q : Port) (d : Nat) : Port := { q with settings := { q.settings with divisor := d } }

/-- A port that is DOWN or LOST becomes DISABLED (R162, R140; log 18). -/
def Port.disable (q : Port) : Port :=
  { q with session := .disabled, intake := [], outbound := [], rdyOut := false, sending := none, rx := .hunt }

/-- A DISABLED port is enabled: DOWN, receiver in HUNT, queues empty, RDY-out asserted (R162). -/
def Port.enable (q : Port) : Port :=
  { q with session := .down, rx := .hunt, intake := [], outbound := [], rdyOut := true }

/-- The effect of a HEAD_SET with settings `l`, by the session and the change of divisor (R162). -/
def State.headSet (s : State) (p : PortId) (l : LineSettings) : State :=
  let q := s.port p
  let s1 := s.withPort p fun q => q.storeTimer l
  let s2 := s1.withPort p fun q => q.storeDivisor l.divisor
  match q.session with
  | .up =>
    if l.divisor = 0 then s2.lose p .disabled
    else if l.divisor = q.settings.divisor then s2.withPort p fun q => { q with silence := q.settings.loaded }
    else s2.withPort p fun q => { q with rx := .hunt, silence := q.settings.loaded }
  | .disabled => if l.divisor = 0 then s2 else s2.withPort p Port.enable
  | .down =>
    if l.divisor = 0 then s2.withPort p Port.disable
    else if l.divisor = q.settings.divisor then s2
    else s2.withPort p fun q => { q with rx := .hunt }
  | .lost _ =>
    if l.divisor = 0 then s2.withPort p Port.disable
    else if l.divisor = q.settings.divisor then s2
    else s2.withPort p fun q => { q with rx := .hunt }

/-- The settings a HEAD_SET payload carries (R161). -/
def readSettings (bs : List Byte) : LineSettings := readLine bs 1

/-- HEAD_SET's checks and effect (R161, R162). -/
def runHeadSet (s : State) (bs : List Byte) : Answer :=
  if bs.length ≠ 6 then s.refuse .badLength
  else
    match portOf (read1 bs 0) with
    | none => s.refuse .badArg
    | some p =>
      if 4095 < read2 bs 1 ∨ 1 < read1 bs 3 ∨ 31 < read1 bs 5 then s.refuse .badArg
      else (s.headSet p (readSettings bs)).settleLamps.accept []

/-- HEAD_SET (R161). -/
def execHeadSet (s : State) : Host.Outcome State Fault Refusal := .next (s.takeHost 0x42 runHeadSet)

/-- The loss cause character of HEAD_STATUS: 0 outside LOST (R163). -/
def Session.causeChar : Session → Byte
  | .lost c => c.code
  | .disabled => 0
  | .down => 0
  | .up => 0

/-- The fields of a HEAD_STATUS reply after its status (R163). -/
def Port.statusChars (q : Port) (p : PortId) : List Byte :=
  [BitVec.ofNat 8 p.val, q.session.code, q.session.causeChar] ++ write4 q.serial.toNat ++ write1 q.maxSites ++
  write3 (q.silence.getD 0) ++ q.settings.chars ++ write3 q.taken ++ write3 q.discarded ++ write3 q.overruns ++
  [flagChar q.faultReported, flagChar q.held] ++ write1 q.touchdowns.length ++
  q.touchdowns.flatMap fun e => [e.tag, e.state.code]

/-- The port with its link counters and fault-reported flag cleared (R147, R163). -/
def Port.clearCounters (q : Port) : Port :=
  { q with taken := 0, discarded := 0, overruns := 0, faultReported := false }

/-- HEAD_STATUS: the reply, then the clearing (R163). -/
def runHeadStatus (s : State) (bs : List Byte) : Answer :=
  if bs.length ≠ 1 then s.refuse .badLength
  else
    match portOf (read1 bs 0) with
    | none => s.refuse .badArg
    | some p => (s.withPort p Port.clearCounters).accept ((s.port p).statusChars p)

/-- HEAD_STATUS (R163). -/
def execHeadStatus (s : State) : Host.Outcome State Fault Refusal := .next (s.takeHost 0x43 runHeadStatus)

/-- HEAD_DROP: a loss with cause DROPPED (R164). -/
def runHeadDrop (s : State) (bs : List Byte) : Answer :=
  if bs.length ≠ 1 then s.refuse .badLength
  else
    match portOf (read1 bs 0) with
    | none => s.refuse .badArg
    | some p =>
      if (s.port p).session ≠ .up then s.refuse .headDown
      else (s.lose p .dropped).accept [BitVec.ofNat 8 p.val]

/-- HEAD_DROP (R164). -/
def execHeadDrop (s : State) : Host.Outcome State Fault Refusal := .next (s.takeHost 0x44 runHeadDrop)

end Sys2Proof.Machine
end

