-- ==== Sys2Proof/Machine/WaferCommands.lean ====
section
/-! DEFINITION. The host commands of the wafer table and the map store (Chapters 1 and 2). -/
namespace Sys2Proof.Machine

/-! ### Placement (R7, R8, R12) -/

/-- The five block sizes in ascending order (Table 1-3). -/
def blockSizes : List Nat := [16384, 32768, 65536, 131072, 262144]

/-- The block size of a grid: the smallest that is at least rows × columns (R7). -/
def blockSizeFor (dies : Nat) : Nat := (blockSizes.find? fun z => dies ≤ z).getD 262144

/-- The blocks held, as (base, size), of the occupied slots (R8). -/
def State.blocks (s : State) : List (Nat × Nat) :=
  (tabList s.slots).filterMap fun sl => sl.wafer.map fun w => (w.base, w.size)

/-- The span overlaps no block (R8). -/
def spanFree (blocks : List (Nat × Nat)) (base size : Nat) : Bool :=
  blocks.all fun b => base + size ≤ b.1 || b.1 + b.2 ≤ base

/-- The lowest multiple of the size whose span in the store overlaps no block (R8). -/
def placeBlock (blocks : List (Nat × Nat)) (size : Nat) : Option Nat :=
  ((List.range (storeCells / size)).map (· * size)).find? fun b => spanFree blocks b size

/-- The largest block size that can be placed, 0 where none can (R12). -/
def State.largestPlaceable (s : State) : Nat :=
  (blockSizes.reverse.find? fun z => (placeBlock s.blocks z).isSome).getD 0

/-! ### WAFER_OPEN (R20 to R23) -/

/-- The arguments of a WAFER_OPEN (Table 2-2). -/
structure OpenArgs where
  port : PortId
  lotText : List Byte
  number : Byte
  rows : Nat
  columns : Nat
  policy : Policy
  page : Nat
deriving DecidableEq, Repr

/-- The rows and columns of a grid are in range (R7, R20). -/
def gridOk (rows columns : Nat) : Bool :=
  1 ≤ rows && rows ≤ 1024 && 1 ≤ columns && columns ≤ 1024 && rows * columns ≤ 262144

/-- A page argument names a profile page or the power-up default profile (R20, R102). -/
def profilePageOk (n : Nat) : Bool := (2 ≤ n && n ≤ 7) || n == 255

/-- The arguments of a WAFER_OPEN payload, absent where one is out of range (R20). -/
def readOpen (bs : List Byte) : Option OpenArgs :=
  match portOf (read1 bs 0), Policy.ofCode (read1 bs 18) with
  | some p, some pol =>
    if charAt bs 13 ≠ 0 ∧ gridOk (read2 bs 14) (read2 bs 16) ∧ profilePageOk (read1 bs 19) then
      some ⟨p, (bs.drop 1).take 12, charAt bs 13, read2 bs 14, read2 bs 16, pol, read1 bs 19⟩
    else none
  | _, _ => none

/-- A wafer bound to the port, other than one in slot `but`, is ACTIVE or SUSPENDED (R21 check 2, R31
check 6). -/
def State.portBusy (s : State) (p : PortId) (but : Option SlotId) : Bool :=
  slotIds.any fun j => some j != but && (s.waferAt j).any fun w =>
    (w.state == .active || w.state == .suspended) && w.boundPort == some p

/-- An occupied slot holds the lot id and wafer number (R21 check 3). -/
def State.dupWafer (s : State) (lot : List Byte) (n : Byte) : Bool :=
  s.someWafer fun w => w.lotText == lot && w.number == n

/-- The FREE slot of lowest index (R22). -/
def State.freeSlot (s : State) : Option SlotId := slotIds.find? fun i => (s.waferAt i).isNone

/-- A page operation is in flight on the page (R21 check 5). -/
def State.inFlightOn (s : State) (pg : StoredPage) : Bool := s.pageOp.any fun op => op.job.page == pg

/-- The profile a page argument names, or the status that refuses it: BUSY where the page is in flight,
BAD_PAGE where it is not VALID (R21 check 5, R102 check 6). 0xFF is the power-up default profile. -/
def State.profileOf (s : State) (n : Nat) : Except Status Profile :=
  match StoredPage.ofId n with
  | some (.profile i) =>
    if s.inFlightOn (.profile i) then .error .busy
    else
      match s.profilePage i with
      | .valid p => .ok p
      | _ => .error .badPage
  | _ => .ok s.defaultProfile

/-- The lot entry in use that holds a lot id (R132). -/
def State.lotHolding (s : State) (lot : List Byte) : Option LotId :=
  lotIds.find? fun l => (tabGet s.lots l).any fun e => e.lotText == lot

/-- The lot entry a WAFER_OPEN joins or creates, absent for NO_LOT (R132). -/
def State.lotFor (s : State) (lot : List Byte) : Option LotId :=
  match s.lotHolding lot with
  | some l => if (tabGet s.lots l).any fun e => e.opened == countCap then none else some l
  | none => lotIds.find? fun l => (tabGet s.lots l).isNone

/-- A lot entry as it is created (R132). -/
def Lot.fresh (lot : List Byte) : Lot := ⟨lot, 0, 0, 0, 0, 0, Vector.replicate 64 0, false⟩

/-- Join or create the entry and count the open (R132). -/
def State.joinLot (s : State) (l : LotId) (lot : List Byte) : State :=
  let e := (tabGet s.lots l).getD (Lot.fresh lot)
  { s with lots := tabSet s.lots l (some { e with opened := bump e.opened }) }

/-- The record of a newly opened wafer (R22). -/
def newWafer (a : OpenArgs) (l : LotId) (base : Nat) (serial : Word32) (prof : Profile) : Wafer where
  state := .active
  lotText := a.lotText
  lotEntry := some l
  number := a.number
  rows := a.rows
  columns := a.columns
  base := base
  size := blockSizeFor (a.rows * a.columns)
  policy := a.policy
  boundPort := some a.port
  serial := serial
  active := prof
  activeSource := BitVec.ofNat 8 a.page
  staged := none
  revision := 0
  bins := Vector.replicate 64 0
  tested := 0
  passDies := 0
  failDies := 0
  resultsApplied := 0
  retestResults := 0
  excessResults := 0
  missingSites := 0
  skippedSites := 0
  touchdownsApplied := 0
  touchdownsVoided := 0
  windowsClosed := 0
  alarmsRaised := 0
  run := 0
  window := Window.empty
  alarms := Vector.replicate 26 Alarm.cleared
  closeCause := none

/-- The ASSIGN frame of a wafer (R23). -/
def Wafer.assignFrame (w : Wafer) (h : Byte) : HeadOut :=
  .assign h w.lotText w.number w.rows w.columns w.policy

/-- Fill a slot with a newly opened wafer, its generation raised by 1 (R19, R22). -/
def State.fillSlot (s : State) (i : SlotId) (w : Wafer) : State :=
  { s with slots := tabModify s.slots i fun sl => ⟨sl.generation + 1, some w⟩ }

/-- The effects of a WAFER_OPEN that passes every check, before its reply (R22, R23). -/
def State.openWafer (s : State) (a : OpenArgs) (i : SlotId) (prof : Profile) (l : LotId) (base : Nat) : State :=
  let w := newWafer a l base (s.port a.port).serial prof
  let s1 := { s with map := mapClear base w.size s.map }.joinLot l a.lotText
  let s2 := s1.fillSlot i w
  let h := s2.handleOf i
  ((s2.queueOut a.port (w.assignFrame h)).judgeHeld a.port h none).settleLamps

/-- Checks 1 to 7 of R21 in order, then the opening (R21, R22). -/
def State.judgeOpen (s : State) (a : OpenArgs) : Answer :=
  if (s.port a.port).session ≠ .up then s.refuse .headDown
  else if s.portBusy a.port none then s.refuse .headBusy
  else if s.dupWafer a.lotText a.number then s.refuse .dupWafer
  else
    match s.freeSlot with
    | none => s.refuse .noSlot
    | some i =>
      match s.profileOf a.page with
      | .error st => s.refuse st
      | .ok prof =>
        match s.lotFor a.lotText with
        | none => s.refuse .noLot
        | some l =>
          match placeBlock s.blocks (blockSizeFor (a.rows * a.columns)) with
          | none => s.refuse .noRoom
          | some base => (s.openWafer a i prof l base).accept [mkHandle i ((tabGet s.slots i).generation + 1)]

/-- WAFER_OPEN (R20, R21). -/
def runWaferOpen (s : State) (bs : List Byte) : Answer :=
  if bs.length ≠ 20 then s.refuse .badLength
  else
    match readOpen bs with
    | none => s.refuse .badArg
    | some a => s.judgeOpen a

/-- WAFER_OPEN (R22). -/
def execWaferOpen (s : State) : Host.Outcome State Fault Refusal := .next (s.takeHost 0x48 runWaferOpen)

/-! ### WAFER_CLOSE and WAFER_ABANDON (R32 to R34) -/

/-- Steps 1 and 2 of R32: void the wafer's entries, then CANCEL to its head where that is UP. -/
def State.endTouchdowns (s : State) (i : SlotId) (w : Wafer) (h : Byte) : State :=
  match w.boundPort with
  | some p => (s.voidWafer p i h).queueOutIfUp p (.cancel h)
  | none => s

/-- WAFER_CLOSE (R32). -/
def runWaferClose (s : State) (bs : List Byte) : Answer :=
  if bs.length ≠ 1 then s.refuse .badLength
  else
    s.withHandle (charAt bs 0) fun i w =>
      if w.state.isBound then
        ((s.endTouchdowns i w (charAt bs 0)).enterClosed i .forced).accept [charAt bs 0]
      else s.refuse .wrongState

/-- WAFER_CLOSE (R32). -/
def execWaferClose (s : State) : Host.Outcome State Fault Refusal :=
  s.guardCells (s.takeHost 0x49 runWaferClose)

/-- WAFER_ABANDON (R34). -/
def runWaferAbandon (s : State) (bs : List Byte) : Answer :=
  if bs.length ≠ 1 then s.refuse .badLength
  else
    s.withHandle (charAt bs 0) fun i w =>
      if w.state.isBound then
        ((s.endTouchdowns i w (charAt bs 0)).enterAbandoned i).accept [charAt bs 0]
      else s.refuse .wrongState

/-- WAFER_ABANDON (R34). -/
def execWaferAbandon (s : State) : Host.Outcome State Fault Refusal :=
  s.guardCells (s.takeHost 0x4A runWaferAbandon)

/-! ### WAFER_RESUME (R31) -/

/-- The effects of a WAFER_RESUME that passes: ACTIVE on the named port with its head's serial, ASSIGN
queued, then HELD of the former and of the named port (R31, R125, R149 rule 3; log 23). -/
def State.resumeOn (s : State) (i : SlotId) (w : Wafer) (h : Byte) (p : PortId) : State :=
  let s1 := s.withWafer i fun w =>
    { w with state := .active, boundPort := some p, serial := (s.port p).serial }
  let s2 := (s1.dropAssignAt w.boundPort h).queueOut p (w.assignFrame h)
  ((s2.judgeBound w.boundPort h none).judgeHeld p h none).settleLamps

/-- WAFER_RESUME (R31). -/
def runWaferResume (s : State) (bs : List Byte) : Answer :=
  if bs.length ≠ 2 then s.refuse .badLength
  else
    match portOf (read1 bs 1) with
    | none => s.refuse .badArg
    | some p =>
      s.withHandle (charAt bs 0) fun i w =>
        if w.state ≠ .suspended then s.refuse .wrongState
        else if (s.port p).session ≠ .up then s.refuse .headDown
        else if s.portBusy p (some i) then s.refuse .headBusy
        else (s.resumeOn i w (charAt bs 0) p).accept [charAt bs 0]

/-- WAFER_RESUME (R31). -/
def execWaferResume (s : State) : Host.Outcome State Fault Refusal := .next (s.takeHost 0x4B runWaferResume)

/-! ### WAFER_DISCARD (R36) -/

/-- A slot that becomes FREE keeps its generation (R18, R36). -/
def Slot.vacate (sl : Slot) : Slot := { sl with wafer := none }

/-- The slot becomes FREE; its block is free with it (R10, R36). -/
def State.freeSlotAt (s : State) (i : SlotId) : State := { s with slots := tabModify s.slots i Slot.vacate }

/-- WAFER_DISCARD (R36). -/
def runWaferDiscard (s : State) (bs : List Byte) : Answer :=
  if bs.length ≠ 1 then s.refuse .badLength
  else
    s.withHandle (charAt bs 0) fun i w =>
      if w.state.isBound then s.refuse .wrongState else (s.freeSlotAt i).accept [charAt bs 0]

/-- WAFER_DISCARD (R36). -/
def execWaferDiscard (s : State) : Host.Outcome State Fault Refusal := .next (s.takeHost 0x4C runWaferDiscard)

/-! ### Reads (R38, R39, R13) -/

/-- The wafer summary after its status (R38, Table 9-9). -/
def Wafer.summary (w : Wafer) (h : Byte) : List Byte :=
  [h, w.state.code, causeChar w.closeCause] ++ w.lotText ++ [lotChar w.lotEntry, w.number] ++
  write2 w.rows ++ write2 w.columns ++ write3 w.base ++ write3 w.size ++ [w.policy.code, portChar w.boundPort] ++
  write4 w.serial.toNat ++ [w.activeSource, (w.staged.map (·.source)).getD 0] ++
  write4 w.revision.toNat ++ write3 w.tested ++ write3 w.passDies ++ write3 w.failDies ++
  write3 w.resultsApplied ++ write3 w.retestResults ++ write3 w.excessResults ++ write3 w.missingSites ++
  write3 w.skippedSites ++ write3 w.touchdownsApplied ++ write3 w.touchdownsVoided ++
  write3 w.windowsClosed ++ write3 w.alarmsRaised ++ write3 w.run ++ write2 w.window.count ++
  write2 w.window.pass ++ write2 w.window.fail ++
  siteIds.flatMap fun n => write2 (tabGet w.window.siteResults n) ++ write2 (tabGet w.window.siteFails n)

/-- WAFER_READ (R38). -/
def runWaferRead (s : State) (bs : List Byte) : Answer :=
  if bs.length ≠ 1 then s.refuse .badLength
  else s.withHandle (charAt bs 0) fun _ w => s.accept (w.summary (charAt bs 0))

/-- WAFER_READ (R38). -/
def execWaferRead (s : State) : Host.Outcome State Fault Refusal := .next (s.takeHost 0x4D runWaferRead)

/-- WAFER_BINS (R39). -/
def runWaferBins (s : State) (bs : List Byte) : Answer :=
  if bs.length ≠ 1 then s.refuse .badLength
  else s.withHandle (charAt bs 0) fun _ w => s.accept (charAt bs 0 :: binCounterChars w.bins)

/-- WAFER_BINS (R39). -/
def execWaferBins (s : State) : Host.Outcome State Fault Refusal := .next (s.takeHost 0x53 runWaferBins)

/-- The cells of a wafer's map from an index on, in ascending index (R13). -/
def State.readCells (s : State) (w : Wafer) (first count : Nat) : List Byte :=
  (List.range count).map fun j => mapRead (w.base + first + j) s.map

/-- MAP_READ (R13, Table 9-7). -/
def runMapRead (s : State) (bs : List Byte) : Answer :=
  if bs.length ≠ 5 then s.refuse .badLength
  else if read1 bs 4 = 0 ∨ 240 < read1 bs 4 then s.refuse .badArg
  else
    s.withHandle (charAt bs 0) fun _ w =>
      if w.rows * w.columns < read3 bs 1 + read1 bs 4 then s.refuse .badArg
      else
        s.accept (charAt bs 0 :: write4 w.revision.toNat ++ write3 (read3 bs 1) ++ write1 (read1 bs 4) ++
          s.readCells w (read3 bs 1) (read1 bs 4))

/-- MAP_READ (R13). -/
def execMapRead (s : State) : Host.Outcome State Fault Refusal := s.guardCells (s.takeHost 0x4E runMapRead)

end Sys2Proof.Machine
end

