-- ==== Sys2Proof/Machine/LimitCommands.lean ====
section
/-! DEFINITION. The host commands of the window and alarm unit: ALARMS_READ, LIMITS_STAGE, LIMITS_READ,
HOLD_RELEASE (sections 5.6, 5.8, 6.3, 6.4). -/
namespace Sys2Proof.Machine

/-- The four characters of an alarm record (R120). -/
def Alarm.chars (a : Alarm) : List Byte :=
  [a.state.code, levelChar a.level, flagChar a.acked, BitVec.ofNat 8 a.count]

/-- ALARMS_READ (R120). -/
def runAlarmsRead (s : State) (bs : List Byte) : Answer :=
  if bs.length ≠ 1 then s.refuse .badLength
  else s.withHandle (charAt bs 0) fun _ w => s.accept (charAt bs 0 :: (tabList w.alarms).flatMap Alarm.chars)

/-- ALARMS_READ (R120). -/
def execAlarmsRead (s : State) : Host.Outcome State Fault Refusal := .next (s.takeHost 0x4F runAlarmsRead)

/-- The wafer's staged profile is replaced (R103). -/
def State.stage (s : State) (i : SlotId) (p : Profile) (source : Byte) : State :=
  s.withWafer i fun w => { w with staged := some ⟨p, source⟩ }

/-- Checks 4 and 5 of R102, then `k`. -/
def State.stageCheck (s : State) (h : Byte) (k : SlotId → Answer) : Answer :=
  s.withHandle h fun i w => if w.state.isBound then k i else s.refuse .wrongState

/-- LIMITS_STAGE in its page form and its image form (R102, R103). -/
def runLimitsStage (s : State) (bs : List Byte) : Answer :=
  if bs.length = 2 then
    if profilePageOk (read1 bs 1) = false then s.refuse .badArg
    else
      s.stageCheck (charAt bs 0) fun i =>
        match s.profileOf (read1 bs 1) with
        | .error st => s.refuse st
        | .ok p => (s.stage i p (charAt bs 1)).accept [charAt bs 0]
  else if imageLengthOk bs = false then s.refuse .badLength
  else if (readProfile bs 1).accepted = false then s.refuse .badLimits
  else s.stageCheck (charAt bs 0) fun i => (s.stage i (readProfile bs 1) 0xFE).accept [charAt bs 0]

/-- LIMITS_STAGE (R103). -/
def execLimitsStage (s : State) : Host.Outcome State Fault Refusal := .next (s.takeHost 0x50 runLimitsStage)

/-- The staged part of a LIMITS_READ reply: its source and image, or 0x00 (R108). -/
def stagedChars : Option Staged → List Byte
  | some st => st.source :: st.profile.image
  | none => [0]

/-- LIMITS_READ (R108). -/
def runLimitsRead (s : State) (bs : List Byte) : Answer :=
  if bs.length ≠ 1 then s.refuse .badLength
  else
    s.withHandle (charAt bs 0) fun _ w =>
      s.accept (charAt bs 0 :: w.activeSource :: w.active.image ++ stagedChars w.staged)

/-- LIMITS_READ (R108). -/
def execLimitsRead (s : State) : Host.Outcome State Fault Refusal := .next (s.takeHost 0x51 runLimitsRead)

/-- A record acknowledged where it is RAISED at HOLD with its flag clear (R118). -/
def Alarm.acknowledge (a : Alarm) : Alarm := if a.holds then { a with acked := true } else a

/-- The record of a wafer whose holds are acknowledged (R118). -/
def Wafer.acknowledge (w : Wafer) : Wafer := { w with alarms := tabMap Alarm.acknowledge w.alarms }

/-- The number of records a HOLD_RELEASE acknowledges (R118). -/
def Wafer.holdCount (w : Wafer) : Nat := ((tabList w.alarms).filter Alarm.holds).length

/-- The port whose HELD state a release judges again: the bound port of a bound wafer (R118). -/
def Wafer.judgedPort (w : Wafer) : Option PortId := if w.state.isBound then w.boundPort else none

/-- HOLD_RELEASE (R118). -/
def runHoldRelease (s : State) (bs : List Byte) : Answer :=
  if bs.length ≠ 1 then s.refuse .badLength
  else
    s.withHandle (charAt bs 0) fun i w =>
      ((s.withWafer i Wafer.acknowledge).judgeBound w.judgedPort (charAt bs 0) none).settleLamps.accept
        (charAt bs 0 :: write1 w.holdCount)

/-- HOLD_RELEASE (R118). -/
def execHoldRelease (s : State) : Host.Outcome State Fault Refusal := .next (s.takeHost 0x52 runHoldRelease)

end Sys2Proof.Machine
end

