-- ==== Sys2Proof/Machine/TableCommands.lean ====
section
/-! DEFINITION. The host commands for the tables, the lots and the notices: BINS_SET, BINS_READ, LAMP_SET,
ALERT_SET, LOT_READ, LOT_END, NOTICE_FETCH (sections 1.1, 6.6, 7.4, 9.4). -/
namespace Sys2Proof.Machine

/-- BINS_SET (R3). -/
def runBinsSet (s : State) (bs : List Byte) : Answer :=
  if bs.length ≠ 64 then s.refuse .badLength
  else if binCodesOk bs = false then s.refuse .badArg
  else if s.someWafer (fun w => w.state.isBound) then s.refuse .wrongState
  else { s with bins := readBins bs }.accept []

/-- BINS_SET (R3). -/
def execBinsSet (s : State) : Host.Outcome State Fault Refusal := .next (s.takeHost 0x54 runBinsSet)

/-- BINS_READ (R4). -/
def runBinsRead (s : State) (bs : List Byte) : Answer :=
  if bs ≠ [] then s.refuse .badLength else s.accept (binChars s.bins)

/-- BINS_READ (R4). -/
def execBinsRead (s : State) : Host.Outcome State Fault Refusal := .next (s.takeHost 0x55 runBinsRead)

/-- LAMP_SET (R129). -/
def runLampSet (s : State) (bs : List Byte) : Answer :=
  if bs.length ≠ 10 then s.refuse .badLength
  else
    match readLampTable bs with
    | none => s.refuse .badArg
    | some t => { s with lampTable := t }.settleLamps.accept []

/-- LAMP_SET (R129). -/
def execLampSet (s : State) : Host.Outcome State Fault Refusal := .next (s.takeHost 0x56 runLampSet)

/-- ALERT_SET (R172). -/
def runAlertSet (s : State) (bs : List Byte) : Answer :=
  if bs.length ≠ 1 then s.refuse .badLength
  else if 1 < read1 bs 0 then s.refuse .badArg
  else { s with alertEnable := read1 bs 0 == 1 }.accept []

/-- ALERT_SET (R172). -/
def execAlertSet (s : State) : Host.Outcome State Fault Refusal := .next (s.takeHost 0x57 runAlertSet)

/-- The members of a lot entry that are bound (R137). -/
def State.boundMembers (s : State) (l : LotId) : Nat :=
  ((tabList s.slots).filter fun sl => sl.wafer.any fun w => w.state.isBound && w.lotEntry == some l).length

/-- The lot entry an index character names, absent above 3 (R137). -/
def lotOf (n : Nat) : Option LotId := if h : n < 4 then some ⟨n, h⟩ else none

/-- The fields of a LOT_READ reply after its status (R137). -/
def Lot.chars (e : Lot) (l : LotId) (bound : Nat) : List Byte :=
  BitVec.ofNat 8 l.val :: e.lotText ++ write3 e.opened ++ write3 e.closed ++ write3 e.abandoned ++ write1 bound ++
  write3 e.tested ++ write3 e.pass ++ [flagChar e.lowReported] ++ binCounterChars e.bins

/-- The checks LOT_READ and LOT_END share: BAD_LENGTH, BAD_ARG, NO_LOT (R137, R138). -/
def State.withLot (s : State) (bs : List Byte) (k : LotId → Lot → Answer) : Answer :=
  if bs.length ≠ 1 then s.refuse .badLength
  else
    match lotOf (read1 bs 0) with
    | none => s.refuse .badArg
    | some l =>
      match tabGet s.lots l with
      | none => s.refuse .noLot
      | some e => k l e

/-- LOT_READ (R137). -/
def runLotRead (s : State) (bs : List Byte) : Answer :=
  s.withLot bs fun l e => s.accept (e.chars l (s.boundMembers l))

/-- LOT_READ (R137). -/
def execLotRead (s : State) : Host.Outcome State Fault Refusal := .next (s.takeHost 0x58 runLotRead)

/-- A slot whose lot entry field names the ended entry has the field made absent (R37). -/
def Slot.leaveLot (l : LotId) (sl : Slot) : Slot :=
  { sl with wafer := sl.wafer.map fun w => if w.lotEntry = some l then { w with lotEntry := none } else w }

/-- The entry becomes free and its members leave it (R37, R138). -/
def State.endLot (s : State) (l : LotId) : State :=
  { s with lots := tabSet s.lots l none, slots := tabMap (Slot.leaveLot l) s.slots }

/-- LOT_END (R138). -/
def runLotEnd (s : State) (bs : List Byte) : Answer :=
  s.withLot bs fun l e =>
    if s.boundMembers l ≠ 0 then s.refuse .wrongState else (s.endLot l).accept (e.chars l 0)

/-- LOT_END (R138). -/
def execLotEnd (s : State) : Host.Outcome State Fault Refusal := .next (s.takeHost 0x59 runLotEnd)

/-- NOTICE_FETCH: the oldest 8 notices leave the queue, then the overflow flag is cleared (R171). -/
def runNoticeFetch (s : State) (bs : List Byte) : Answer :=
  if bs ≠ [] then s.refuse .badLength
  else
    let gone := s.notices.take 8
    let kept := s.notices.drop 8
    { s with notices := kept, overflow := false }.accept
      (flagChar s.overflow :: write1 gone.length ++ write1 kept.length ++ gone.flatMap Notice.record)

/-- NOTICE_FETCH (R171). -/
def execNoticeFetch (s : State) : Host.Outcome State Fault Refusal := .next (s.takeHost 0x5A runNoticeFetch)

end Sys2Proof.Machine
end

