-- ==== Sys2Proof/Machine/PageCommands.lean ====
section
/-! DEFINITION. The host commands of the page store and of the part: QUERY_PART, PAGE_READ, PAGE_WRITE,
PAGE_ERASE, STATUS, PART_RESET (Chapter 10, R169, R174). -/
namespace Sys2Proof.Machine

/-- QUERY_PART (R178). -/
def runQueryPart (s : State) (bs : List Byte) : Answer :=
  if bs ≠ [] then s.refuse .badLength else s.accept s.identity.chars

/-- QUERY_PART (R178). -/
def execQueryPart (s : State) : Host.Outcome State Fault Refusal := .next (s.takeHost 0x40 runQueryPart)

/-- The answer to a PAGE_READ of a page by its state: VALID 1 with the contents, BLANK 2, BAD_PAGE where
DAMAGED (R178, Table 10-2). -/
def State.readPage {α : Type} (s : State) (id : Byte) (pg : Page α) (chars : α → List Byte) : Answer :=
  match pg with
  | .valid c => s.accept (id :: 1 :: chars c)
  | .blank => s.accept [id, 2]
  | .damaged => s.refuse .badPage

/-- PAGE_READ; page 0 is VALID at all times (R177, R178). -/
def runPageRead (s : State) (bs : List Byte) : Answer :=
  if bs.length ≠ 1 then s.refuse .badLength
  else if 7 < read1 bs 0 then s.refuse .badArg
  else
    match StoredPage.ofId (read1 bs 0) with
    | none => s.accept (charAt bs 0 :: 1 :: s.identity.chars)
    | some pg =>
      if s.inFlightOn pg then s.refuse .busy
      else
        match pg with
        | .defaults => s.readPage (charAt bs 0) s.defaultsPage Defaults.chars
        | .profile i => s.readPage (charAt bs 0) (s.profilePage i) Profile.image

/-- PAGE_READ (R178). -/
def execPageRead (s : State) : Host.Outcome State Fault Refusal := .next (s.takeHost 0x5C runPageRead)

/-- Start a page operation: the page's former contents are lost from this moment (R177, R179; log 19). -/
def State.startJob (s : State) (j : PageJob) : State :=
  { s.damagePage j.page with pageOp := some ⟨j, j.duration⟩ }

/-- PAGE_ERASE: 20 ms (R179). -/
def runPageErase (s : State) (bs : List Byte) : Answer :=
  if bs.length ≠ 1 then s.refuse .badLength
  else if 7 < read1 bs 0 then s.refuse .badArg
  else
    match StoredPage.ofId (read1 bs 0) with
    | none => s.refuse .pageLocked
    | some pg =>
      if s.pageOp.isSome then s.refuse .busy else (s.startJob (.erase pg)).accept [charAt bs 0]

/-- PAGE_ERASE (R179). -/
def execPageErase (s : State) : Host.Outcome State Fault Refusal := .next (s.takeHost 0x5E runPageErase)

/-- The snapshot a PAGE_WRITE of page 1 composes: the live settings and the profile carried (R180). -/
def State.snapshot (s : State) (p : Profile) : Defaults :=
  ⟨s.bins, s.lampTable, tabMap (·.settings) s.ports, s.alertEnable, p⟩

/-- The program a PAGE_WRITE starts, with the 256 bytes it composes (R180). -/
def State.writeJob (s : State) (pg : StoredPage) (p : Profile) : PageJob :=
  match pg with
  | .defaults => .program .defaults (pageImage (s.snapshot p).chars)
  | .profile i => .program (.profile i) (pageImage p.image)

/-- PAGE_WRITE: 8 ms (R180). -/
def runPageWrite (s : State) (bs : List Byte) : Answer :=
  if imageLengthOk bs = false then s.refuse .badLength
  else if 7 < read1 bs 0 then s.refuse .badArg
  else
    match StoredPage.ofId (read1 bs 0) with
    | none => s.refuse .pageLocked
    | some pg =>
      if (readProfile bs 1).accepted = false then s.refuse .badLimits
      else if s.pageOp.isSome then s.refuse .busy
      else if s.pageBlank pg = false then s.refuse .wrongState
      else (s.startJob (s.writeJob pg (readProfile bs 1))).accept [charAt bs 0]

/-- PAGE_WRITE (R180). -/
def execPageWrite (s : State) : Host.Outcome State Fault Refusal := .next (s.takeHost 0x5D runPageWrite)

/-! ### STATUS (R169) -/

/-- The handle and state code of each occupied slot in ascending slot index (R169). -/
def State.slotChars (s : State) : List Byte :=
  slotIds.flatMap fun i =>
    match s.waferAt i with
    | some w => [s.handleOf i, w.state.code]
    | none => []

/-- The number of occupied slots (R169). -/
def State.occupied (s : State) : Nat := (slotIds.filter fun i => (s.waferAt i).isSome).length

/-- The id of the page in flight, 0xFF when none is (R169). -/
def State.pageInFlight (s : State) : Byte :=
  match s.pageOp with
  | some op => op.job.page.id
  | none => 0xFF

/-- The fields of a STATUS reply after its status (R169). -/
def State.statusChars (s : State) : List Byte :=
  ((tabList s.ports).flatMap fun q => [q.session.code, flagChar q.held]) ++ write1 s.occupied ++ s.slotChars ++
  write3 s.largestPlaceable ++ write1 s.notices.length ++ [flagChar s.overflow] ++ write3 s.host.overruns ++
  write3 s.host.discarded ++ [s.pageInFlight]

/-- STATUS: the reply, then the host counters are cleared (R169). -/
def runStatus (s : State) (bs : List Byte) : Answer :=
  if bs ≠ [] then s.refuse .badLength
  else { s with host := { s.host with overruns := 0, discarded := 0 } }.accept s.statusChars

/-- STATUS (R169). -/
def execStatus (s : State) : Host.Outcome State Fault Refusal := .next (s.takeHost 0x41 runStatus)

/-! ### PART_RESET (R174) -/

/-- A port at a soft reset (R165). -/
def Port.softReset (q : Port) : Port :=
  { q with session := if q.session = .disabled then .disabled else .down
           rx := .hunt
           intake := []
           outbound := []
           rdyOut := if q.session = .disabled then q.rdyOut else true
           silence := none
           taken := 0
           discarded := 0
           overruns := 0
           faultReported := false
           serial := 0
           maxSites := 0
           held := false
           touchdowns := [] }

/-- Soft reset: every slot FREE with its generation kept, lots and notices gone, ports DOWN or
DISABLED (R174, R18, R62, R131, R165, R173, R130). -/
def State.softReset (s : State) : State :=
  { s with
    slots := tabMap Slot.vacate s.slots
    lots := Vector.replicate 4 none
    ports := tabMap Port.softReset s.ports
    notices := []
    overflow := false }.settleLamps

/-- PART_RESET (R174). -/
def runPartReset (s : State) (bs : List Byte) : Answer :=
  if bs ≠ [] then s.refuse .badLength else s.softReset.accept []

/-- PART_RESET (R174). -/
def execPartReset (s : State) : Host.Outcome State Fault Refusal := .next (s.takeHost 0x5F runPartReset)

end Sys2Proof.Machine
end

