-- ==== Sys2Proof/Machine/Dispatch.lean ====
section
/-! DEFINITION. One arm for each command of spec/opcode_table.json. -/
namespace Sys2Proof.Machine

def exec (i : Instr) (s : State) : Host.Outcome State Fault Refusal :=
  match i with
  | .headFrameReceived p cs => Sys2Proof.Machine.execHeadFrameReceived p cs s
  | .shortBreak p => Sys2Proof.Machine.execShortBreak p s
  | .longBreak p => Sys2Proof.Machine.execLongBreak p s
  | .hostFrameReceived cs => Sys2Proof.Machine.execHostFrameReceived cs s
  | .hostShortBreak => Sys2Proof.Machine.execHostShortBreak s
  | .announce p => Sys2Proof.Machine.execAnnounce p s
  | .touch p => Sys2Proof.Machine.execTouch p s
  | .site p => Sys2Proof.Machine.execSite p s
  | .lift p => Sys2Proof.Machine.execLift p s
  | .unload p => Sys2Proof.Machine.execUnload p s
  | .beat p => Sys2Proof.Machine.execBeat p s
  | .nonHeadFrame p => Sys2Proof.Machine.execNonHeadFrame p s
  | .silenceExpiry p => Sys2Proof.Machine.execSilenceExpiry p s
  | .headFrameSend p rdyIn => Sys2Proof.Machine.execHeadFrameSend p rdyIn s
  | .hostReplySend e => Sys2Proof.Machine.execHostReplySend e s
  | .pageDone stored => Sys2Proof.Machine.execPageDone stored s
  | .lampPhaseExpiry l => Sys2Proof.Machine.execLampPhaseExpiry l s
  | .powerUp straps => Sys2Proof.Machine.execPowerUp straps s
  | .pinReset straps => Sys2Proof.Machine.execPinReset straps s
  | .queryPart => Sys2Proof.Machine.execQueryPart s
  | .status => Sys2Proof.Machine.execStatus s
  | .headSet => Sys2Proof.Machine.execHeadSet s
  | .headStatus => Sys2Proof.Machine.execHeadStatus s
  | .headDrop => Sys2Proof.Machine.execHeadDrop s
  | .waferOpen => Sys2Proof.Machine.execWaferOpen s
  | .waferClose => Sys2Proof.Machine.execWaferClose s
  | .waferAbandon => Sys2Proof.Machine.execWaferAbandon s
  | .waferResume => Sys2Proof.Machine.execWaferResume s
  | .waferDiscard => Sys2Proof.Machine.execWaferDiscard s
  | .waferRead => Sys2Proof.Machine.execWaferRead s
  | .mapRead => Sys2Proof.Machine.execMapRead s
  | .alarmsRead => Sys2Proof.Machine.execAlarmsRead s
  | .limitsStage => Sys2Proof.Machine.execLimitsStage s
  | .limitsRead => Sys2Proof.Machine.execLimitsRead s
  | .holdRelease => Sys2Proof.Machine.execHoldRelease s
  | .waferBins => Sys2Proof.Machine.execWaferBins s
  | .binsSet => Sys2Proof.Machine.execBinsSet s
  | .binsRead => Sys2Proof.Machine.execBinsRead s
  | .lampSet => Sys2Proof.Machine.execLampSet s
  | .alertSet => Sys2Proof.Machine.execAlertSet s
  | .lotRead => Sys2Proof.Machine.execLotRead s
  | .lotEnd => Sys2Proof.Machine.execLotEnd s
  | .noticeFetch => Sys2Proof.Machine.execNoticeFetch s
  | .pageRead => Sys2Proof.Machine.execPageRead s
  | .pageWrite => Sys2Proof.Machine.execPageWrite s
  | .pageErase => Sys2Proof.Machine.execPageErase s
  | .partReset => Sys2Proof.Machine.execPartReset s
  | .unknownKind => Sys2Proof.Machine.execUnknownKind s
  | .framingError p c => Sys2Proof.Machine.execFramingError p c s
  | .breakEnd p => Sys2Proof.Machine.execBreakEnd p s
  | .hostFramingError c => Sys2Proof.Machine.execHostFramingError c s
  | .hostBreakEnd => Sys2Proof.Machine.execHostBreakEnd s
  | .frameFinished p rdyIn => Sys2Proof.Machine.execFrameFinished p rdyIn s

end Sys2Proof.Machine
end

