-- ==== Sys2Proof/Safety.lean ====
section
/-! DEFINITION. The laws of the device that every step keeps, as predicates of a state, and the words the
statements are made of. -/
namespace Sys2Proof.Machine

/-! ### Laws of the device -/

/-- The map store is in its canonical form, and the bin of a cell is 0 exactly when its test count is
(R5, R8; log 15). -/
def State.MapLaw (s : State) : Prop :=
  mapWf s.map ∧ ∀ c ∈ s.map, cellCount c.2 ≠ 0 ∧ cellBin c.2 ≠ 0

/-- A head is HELD exactly while some wafer bound to it has a record RAISED at HOLD without
acknowledgement (R121). -/
def State.HeldLaw (s : State) : Prop :=
  ∀ p, (s.port p).held = true ↔
    ∃ i w src, s.waferAt i = some w ∧ w.boundTo p = true ∧ (tabGet w.alarms src).holds = true

/-- A wafer is in one of the two states of which a port has at most one (R40). -/
def Wafer.live (w : Wafer) : Prop := w.state = .active ∨ w.state = .suspended

/-- The bound port is present exactly in the bound states, an ACTIVE or DRAINING wafer's head is UP, and
each port has at most one wafer ACTIVE or SUSPENDED and at most one DRAINING (Table 2-1, R28, R40). -/
def State.BindingLaw (s : State) : Prop :=
  (∀ i, ∀ w ∈ s.waferAt i, w.state.isBound = w.boundPort.isSome) ∧
  (∀ i, ∀ w ∈ s.waferAt i, ∀ p ∈ w.boundPort, w.state ≠ .suspended → (s.port p).session = .up) ∧
  ∀ i j, ∀ v ∈ s.waferAt i, ∀ w ∈ s.waferAt j, v.boundPort = w.boundPort → v.boundPort.isSome = true →
    (v.live ∧ w.live ∨ v.state = .draining ∧ w.state = .draining) → i = j

/-- Every block is aligned, inside the store and of the size of its wafer's grid, and no two overlap
(R7, R8). -/
def State.BlockLaw (s : State) : Prop :=
  (∀ i, ∀ w ∈ s.waferAt i, gridOk w.rows w.columns = true ∧ w.size = blockSizeFor (w.rows * w.columns) ∧
    w.size ∣ w.base ∧ w.base + w.size ≤ storeCells) ∧
  ∀ i j, i ≠ j → ∀ v ∈ s.waferAt i, ∀ w ∈ s.waferAt j, v.base + v.size ≤ w.base ∨ w.base + w.size ≤ v.base

/-- A lot entry in use and the wafers that name it agree: opened is closed plus abandoned plus bound
members, tested, unless saturated, is the sum of the bin counters, no two entries hold one lot id, and
every bound wafer names an entry in use (R131, R133, R136, R137). -/
def State.LotLaw (s : State) : Prop :=
  (∀ l, ∀ e ∈ tabGet s.lots l, e.opened = e.closed + e.abandoned + s.boundMembers l ∧ e.opened ≤ countCap ∧
    (e.tested < countCap → e.tested = (tabList e.bins).tail.sum)) ∧
  (∀ k l, ∀ d ∈ tabGet s.lots k, ∀ e ∈ tabGet s.lots l, d.lotText = e.lotText → k = l) ∧
  ∀ i, ∀ w ∈ s.waferAt i, (w.state.isBound = true → w.lotEntry.isSome = true) ∧
    ∀ l ∈ w.lotEntry, ∃ e ∈ tabGet s.lots l, e.lotText = w.lotText

/-- A frame in assembly fits its length of 250 or fewer (R141). -/
def Receiver.Law : Receiver → Prop
  | .hunt => True
  | .length _ => True
  | .payload _ n got => got.length < n ∧ n ≤ 250
  | .check _ got => got.length ≤ 250

/-- A port's session, divisor, queues, timer and list agree, its two queues hold 8 frames or fewer, and its
counters are in range (R42, R43, R140, R141, R145, R147, R149, R151, R155, R165). That a DISABLED port's receiver is in HUNT and its transmitter idle,
whatever it was disabled from, is log 18. -/
def Port.Law (q : Port) : Prop :=
  (q.session = .disabled ↔ q.settings.divisor = 0) ∧
  (q.session = .disabled →
    q.rx = .hunt ∧ q.intake = [] ∧ q.outbound = [] ∧ q.sending = none ∧ q.rdyOut = false) ∧
  (q.session ≠ .disabled →
    (6 ≤ q.intake.length → q.rdyOut = false) ∧ (q.intake.length ≤ 4 → q.rdyOut = true)) ∧
  q.intake.length ≤ 8 ∧ q.outbound.length ≤ 8 ∧ q.rx.Law ∧ (∀ f ∈ q.intake, f.payload.length ≤ 250) ∧
  q.taken ≤ countCap ∧ q.discarded ≤ countCap ∧ q.overruns ≤ countCap ∧ q.maxSites ≤ 16 ∧
  (q.silence.isSome = true ↔ q.session = .up ∧ q.settings.count ≠ 0) ∧
  (∀ ms ∈ q.silence, ms ≤ q.settings.periodMs) ∧
  (q.session = .up → 1 ≤ q.maxSites ∧ q.maxSites ≤ 16) ∧
  (q.session ≠ .up → q.touchdowns = [])

/-- Every port keeps its law. -/
def State.PortLaw (s : State) : Prop := ∀ p, (s.port p).Law

/-- A frame answers a head frame (R149). -/
def HeadOut.isAnswer : HeadOut → Bool
  | .welcome _ _ _ => true
  | .touchAck _ _ _ => true
  | .refuse _ _ _ _ => true
  | _ => false

/-- A frame is an ASSIGN. -/
def HeadOut.isAssign : HeadOut → Bool
  | .assign _ _ _ _ _ _ => true
  | _ => false

/-- A frame is a CANCEL. -/
def HeadOut.isCancel : HeadOut → Bool
  | .cancel _ => true
  | _ => false

/-- The slots of the wafers bound to a port that no waiting ASSIGN names. -/
def State.unannounced (s : State) (p : PortId) : List SlotId :=
  slotIds.filter fun i => (s.waferAt i).any (·.boundTo p) && !(s.port p).outbound.any (HeadOut.assigns (s.handleOf i))

/-- What waits in each outbound queue, which keeps it to 8 frames (R149): at most 3 answers; at most one HOLD or
PROCEED; ASSIGNs of distinct wafers, each bound to the port; and, at each waiting CANCEL, no more than two of
the ASSIGNs ahead of it, itself and the CANCELs behind it, and the bound wafers that no waiting ASSIGN names,
since all these were bound to the port when that CANCEL joined. -/
def State.OutboundLaw (s : State) : Prop :=
  ∀ p, let q := (s.port p).outbound
    (q.filter HeadOut.isAnswer).length ≤ 3 ∧ (q.filter HeadOut.isHoldFrame).length ≤ 1 ∧
    (∀ f ∈ q, f.isAssign = true → ∃ i, (s.waferAt i).any (·.boundTo p) = true ∧ f.assigns (s.handleOf i) = true) ∧
    (∀ i, (q.filter (HeadOut.assigns (s.handleOf i))).length ≤ 1) ∧
    ∀ n < q.length, (q.drop n).head?.any HeadOut.isCancel = true →
      ((q.take n).filter HeadOut.isAssign).length + ((q.drop n).filter HeadOut.isCancel).length +
        (s.unannounced p).length ≤ 2

/-- The host queues hold no more than their capacity, the host's RDY-out follows its queue, and its counters are
in range (R166, R170). -/
def State.HostLaw (s : State) : Prop :=
  s.host.intake.length ≤ 4 ∧ (s.host.rdyOut = true ↔ s.host.intake.length ≤ 2) ∧ s.notices.length ≤ 32 ∧
  s.host.rx.Law ∧ (∀ f ∈ s.host.intake, f.payload.length ≤ 250) ∧ s.host.discarded ≤ countCap ∧ s.host.overruns ≤ countCap

/-- A site of an entry lies in its wafer's grid, and its result is bin 0 or of a class other than UNUSED
(R49, R51). -/
def State.SiteLaw (s : State) (w : Wafer) (d : SiteEntry) : Prop :=
  d.column < w.columns ∧ d.row < w.rows ∧ ∀ r ∈ d.result, r = 0 ∨ s.binClass r ≠ .unused

/-- An entry names a wafer bound to its head in state ACTIVE or DRAINING, and lists 1 to 16 sites of
distinct numbers and dies (Table 3-1, R42, R49). -/
def State.EntryLaw (s : State) (p : PortId) (e : Entry) : Prop :=
  (∃ i ∈ s.resolve e.handle, ∃ w ∈ s.waferAt i, w.boundPort = some p ∧ (w.state = .active ∨ w.state = .draining) ∧
    ∀ d ∈ e.sites, s.SiteLaw w d) ∧
  1 ≤ e.sites.length ∧ e.sites.length ≤ 16 ∧ (e.sites.map (·.number)).Nodup ∧
  (e.sites.map fun d => (d.column, d.row)).Nodup

/-- Every touchdown list holds at most 4 entries with distinct tags, each keeping its law, and an OPEN
front; a DRAINING wafer has an entry in its head's list (R25, R42, R55). -/
def State.TouchdownLaw (s : State) : Prop :=
  (∀ p, (s.port p).touchdowns.length ≤ 4 ∧ ((s.port p).touchdowns.map (·.tag)).Nodup ∧
    (∀ e ∈ (s.port p).touchdowns, s.EntryLaw p e) ∧ ∀ e ∈ (s.port p).touchdowns.head?, e.state = .isOpen) ∧
  ∀ i, ∀ w ∈ s.waferAt i, w.state = .draining →
    ∀ p ∈ w.boundPort, ∃ e ∈ (s.port p).touchdowns, e.handle = s.handleOf i

/-- How many dies of a wafer have a cell with the property. -/
def State.cellsWhere (s : State) (w : Wafer) (f : Byte → Bool) : Nat :=
  ((List.range (w.rows * w.columns)).filter fun n => f (mapRead (w.base + n) s.map)).length

/-- The sum of a wafer's bin counters over the bins of a class. -/
def State.classSum (s : State) (w : Wafer) (c : BinClass) : Nat :=
  ((tabList (Vector.ofFn fun b : Bin => if s.binClass b = c then tabGet w.bins b else 0))).sum

/-- The bin counters sum to tested-dies, which is the number of tested cells and the sum of pass-dies and
fail-dies; each bin counter is the number of cells of its bin, and while the wafer is bound the dies
counts are those of the bin classes (R84). -/
def State.CountLaw (s : State) : Prop :=
  ∀ i, ∀ w ∈ s.waferAt i,
    (tabList w.bins).tail.sum = w.tested ∧
    w.tested = s.cellsWhere w (fun c => cellCount c != 0) ∧
    w.passDies + w.failDies = w.tested ∧
    (∀ b : Bin, b ≠ 0 → tabGet w.bins b = s.cellsWhere w (fun c => cellCount c != 0 && cellBin c == b)) ∧
    (w.state.isBound = true → w.passDies = s.classSum w .pass ∧ w.failDies = s.classSum w .fail)

/-- The fields of an alarm record fit its state (Table 6-1, R110, R114, R115). -/
def Alarm.Law (a : Alarm) : Prop :=
  match a.state with
  | .clear => a = Alarm.cleared
  | .pending => a.level.isSome = true ∧ a.acked = false ∧ 1 ≤ a.count ∧ a.count ≤ 8
  | .raised => a.level.isSome = true ∧ a.count = 0 ∧ (a.acked = true → a.level = some .hold)
  | .clearing => a.level.isSome = true ∧ (a.acked = true ↔ a.level = some .hold) ∧ 1 ≤ a.count ∧ a.count ≤ 8

/-- Every record of an occupied slot keeps its law, RUN is never PENDING, and a BIN record without a
watched entry is CLEAR (R105, R111, R116). -/
def State.AlarmLaw (s : State) : Prop :=
  ∀ i, ∀ w ∈ s.waferAt i, (∀ src, (tabGet w.alarms src).Law) ∧ (tabGet w.alarms runSource).state ≠ .pending ∧
    ∀ j : Fin 8, w.active.watched.length ≤ j.val → tabGet w.alarms (binSource j) = Alarm.cleared

/-- A wafer's window is not full, and its pass, fail and site counts sum as its results do (R79, R80, R82,
R92). -/
def State.WindowLaw (s : State) : Prop :=
  ∀ i, ∀ w ∈ s.waferAt i, w.window.count < w.active.window ∧ w.window.pass + w.window.fail = w.window.count ∧
    (tabList w.window.siteResults).sum = w.window.count ∧ (tabList w.window.siteFails).sum = w.window.fail

/-- The settings a page-1 snapshot carries are in range (R1, R87, R88, R140). -/
def Defaults.Law (d : Defaults) : Prop :=
  tabGet d.bins 0 = .unused ∧ (∀ p, (tabGet d.lines p).divisor ≤ 4095) ∧ d.profile.accepted = true

/-- The contents of a page, where it is VALID, satisfy `P`. -/
def Page.holds {α : Type} (P : α → Prop) : Page α → Prop
  | .valid c => P c
  | .blank => True
  | .damaged => True

/-- What an operation programs is VALID in its page (R180, R181). -/
def PageJob.Law : PageJob → Prop
  | .erase _ => True
  | .program .defaults bytes => ((PageBytes.written bytes).judge storedDefaults).isValid = true
  | .program (.profile _) bytes => ((PageBytes.written bytes).judge storedProfile).isValid = true

/-- Bin 0 is UNUSED, every divisor is at most 4095, and every profile held anywhere, in a VALID page too, is
well-formed and consistent; an operation in flight has its time or less to run, programs a VALID page, and has
left nothing of its page's former contents (R1, R87, R88, R140, R177, R179, R180, R181). -/
def State.SettingsLaw (s : State) : Prop :=
  tabGet s.bins 0 = .unused ∧ (∀ p, (s.port p).settings.divisor ≤ 4095) ∧ s.defaultProfile.accepted = true ∧
  (∀ i, ∀ w ∈ s.waferAt i, w.active.accepted = true ∧ ∀ st ∈ w.staged, st.profile.accepted = true) ∧
  s.defaultsPage.holds Defaults.Law ∧ (∀ i, (s.profilePage i).holds fun p => p.accepted = true) ∧
  ∀ op ∈ s.pageOp, op.job.Law ∧ op.remaining ≤ op.job.duration ∧ s.pageBytes op.job.page = PageBytes.lost

/-- The saturating counters of every record and of every lot entry lie from 0 to 16,777,215, and an entry's pass
and bin counters at or below its tested (R17, R133, R136). -/
def State.CounterLaw (s : State) : Prop :=
  (∀ i, ∀ w ∈ s.waferAt i, ∀ n ∈ [w.resultsApplied, w.retestResults, w.excessResults, w.missingSites, w.skippedSites,
    w.touchdownsApplied, w.touchdownsVoided, w.windowsClosed, w.alarmsRaised, w.run], n ≤ countCap) ∧
  ∀ l, ∀ e ∈ tabGet s.lots l, e.opened ≤ countCap ∧ e.closed ≤ countCap ∧ e.abandoned ≤ countCap ∧
    e.tested ≤ countCap ∧ e.pass ≤ e.tested ∧ ∀ b : Bin, b ≠ 0 → tabGet e.bins b ≤ e.tested

/-- A lamp's output and timer fit what it shows: a dark lamp is dark, a STEADY lamp lit, a blink's timer
within its half (R128). -/
def LampState.Law (l : LampState) : Prop :=
  (l.shown = none → l.lit = false ∧ l.timer = 0) ∧ (l.shown = some .steady → l.lit = true ∧ l.timer = 0) ∧
  ∀ pat ∈ l.shown, l.timer ≤ pat.halfMs

/-- Each lamp shows the pattern of the highest-ranked active condition assigned to it (R127, R128). -/
def State.LampLaw (s : State) : Prop :=
  ∀ l, (s.lamps.get l).shown = s.lampPattern l ∧ (s.lamps.get l).Law

/-- All the laws together. -/
structure State.Sound (s : State) : Prop where
  map : s.MapLaw
  held : s.HeldLaw
  binding : s.BindingLaw
  block : s.BlockLaw
  lot : s.LotLaw
  port : s.PortLaw
  outbound : s.OutboundLaw
  host : s.HostLaw
  touchdown : s.TouchdownLaw
  count : s.CountLaw
  settings : s.SettingsLaw
  lamp : s.LampLaw
  counter : s.CounterLaw
  alarm : s.AlarmLaw
  window : s.WindowLaw

/-! ### What a command finds at the front of its queue (R148, R167; log 1) -/

/-- No reply is waiting or in transmission, and the front frame of the host intake queue has kind `k` and
payload `bs`. -/
def State.HostFinds (s : State) (k : Byte) (bs : List Byte) (rest : List Frame) : Prop :=
  s.host.reply = none ∧ s.host.intake = ⟨k, bs⟩ :: rest

/-- The front frame of a port's intake queue has kind `k` and payload `bs`, and the port may take it. -/
def State.HeadFinds (s : State) (p : PortId) (k : Byte) (bs : List Byte) (rest : List Frame) : Prop :=
  (s.port p).intake = ⟨k, bs⟩ :: rest ∧ (s.port p).outbound.length ≤ 2 ∧ (s.port p).session ≠ .disabled

/-- A port's frames-discarded after something that discards the frame in progress, where there is one
(R141, R143, R147). -/
def Port.discardedAfter (q : Port) : Nat := if q.rx = .hunt then q.discarded else bump q.discarded

/-- The host's frames-discarded after something that discards the frame in progress, where there is one
(R166). -/
def HostLine.discardedAfter (q : HostLine) : Nat := if q.rx = .hunt then q.discarded else bump q.discarded

/-- The front frame of a port's intake queue is taken: it leaves the queue, RDY-out follows, and frames
taken rises (R145, R147, R148). -/
def Port.taking (q : Port) (rest : List Frame) : Port :=
  { q with intake := rest, rdyOut := if rest.length ≤ 4 then true else q.rdyOut, taken := bump q.taken }

/-- The commands that take a head frame other than ANNOUNCE, with the kinds they take (Table 8-3). -/
def frameCommands (p : PortId) : List (Instr × Byte) :=
  [(.touch p, 0x12), (.site p, 0x13), (.lift p, 0x14), (.unload p, 0x15), (.beat p, 0x16)]

/-- The host commands with their codes (Table 9-2). -/
def hostCommands : List (Instr × Byte) :=
  [(.queryPart, 0x40), (.status, 0x41), (.headSet, 0x42), (.headStatus, 0x43), (.headDrop, 0x44), (.waferOpen, 0x48),
   (.waferClose, 0x49), (.waferAbandon, 0x4A), (.waferResume, 0x4B), (.waferDiscard, 0x4C), (.waferRead, 0x4D),
   (.mapRead, 0x4E), (.alarmsRead, 0x4F), (.limitsStage, 0x50), (.limitsRead, 0x51), (.holdRelease, 0x52),
   (.waferBins, 0x53), (.binsSet, 0x54), (.binsRead, 0x55), (.lampSet, 0x56), (.alertSet, 0x57), (.lotRead, 0x58),
   (.lotEnd, 0x59), (.noticeFetch, 0x5A), (.pageRead, 0x5C), (.pageWrite, 0x5D), (.pageErase, 0x5E), (.partReset, 0x5F)]

/-- The front command of the host intake queue is taken and answered: it leaves the queue, RDY-out follows,
and its reply of kind `k` + 0x80 waits (R166, R167, R168). -/
def State.answered (s : State) (rest : List Frame) (k : Byte) (payload : List Byte) : State :=
  { s with host := { s.host with
      intake := rest
      rdyOut := if rest.length ≤ 2 then true else s.host.rdyOut
      reply := some ⟨⟨k + 0x80, payload⟩, false⟩ } }

/-- How many entries of a list name the wafer in a slot. -/
def State.naming (s : State) (es : List Entry) (i : SlotId) : Nat :=
  (es.filter fun e => s.resolve e.handle = some i).length

/-- Touchdowns-voided after `n` voidings (R17, R60). -/
def voidedAfter (voided n : Nat) : Nat := if n = 0 then voided else min (voided + n) 16777215

/-- The payload length each host command is refused for first, by its code: the length of `bs` is none that
Table 9-2 gives the command. -/
def wrongLength (k : Byte) (bs : List Byte) : Prop :=
  if k ∈ [0x40, 0x41, 0x55, 0x5A, 0x5F] then bs.length ≠ 0
  else if k ∈ [0x43, 0x44, 0x49, 0x4A, 0x4C, 0x4D, 0x4F, 0x51, 0x52, 0x53, 0x57, 0x58, 0x59, 0x5C, 0x5E] then bs.length ≠ 1
  else if k = 0x4B then bs.length ≠ 2
  else if k = 0x4E then bs.length ≠ 5
  else if k = 0x42 then bs.length ≠ 6
  else if k = 0x56 then bs.length ≠ 10
  else if k = 0x48 then bs.length ≠ 20
  else if k = 0x54 then bs.length ≠ 64
  else if k = 0x5D then bs.length < 22 ∨ bs.length ≠ 22 + 5 * (charAt bs 21).toNat
  else bs.length ≠ 2 ∧ (bs.length < 22 ∨ bs.length ≠ 22 + 5 * (charAt bs 21).toNat)

/-- A host command of code `k` answers a payload of none of its lengths with BAD_LENGTH and changes nothing
outside the host line's queue and reply (R168). -/
def RefusesLength (c : Instr) (k : Byte) : Prop :=
  ∀ (s : State) (bs : List Byte) (rest : List Frame), s.cellsExist = true → s.HostFinds k bs rest → wrongLength k bs →
    exec c s = .next (s.answered rest k [15])

/-- The payload of a TOUCH with these sites (Table 9-6). -/
def touchPayload (h tag : Byte) (ds : List RawSite) : List Byte :=
  h :: tag :: BitVec.ofNat 8 ds.length ::
    ds.flatMap fun d => BitVec.ofNat 8 d.number :: write2 d.column ++ write2 d.row

/-- The fields of these sites fit their characters, and so many sites fit one frame (R45, Table 9-6). -/
def touchFits (ds : List RawSite) : Prop :=
  ds.length ≤ 49 ∧ ∀ d ∈ ds, d.number < 256 ∧ d.column < 65536 ∧ d.row < 65536

/-- The payload of a WAFER_OPEN (R20, Table 2-2). -/
def openPayload (a : OpenArgs) : List Byte :=
  BitVec.ofNat 8 a.port.val :: a.lotText ++ [a.number] ++ write2 a.rows ++ write2 a.columns ++
    [a.policy.code, BitVec.ofNat 8 a.page]

/-- The arguments of a WAFER_OPEN are those its payload can carry and its argument checks pass (R20). -/
def openArgsOk (a : OpenArgs) : Prop :=
  a.lotText.length = 12 ∧ a.number ≠ 0 ∧ 1 ≤ a.rows ∧ a.rows ≤ 1024 ∧ 1 ≤ a.columns ∧ a.columns ≤ 1024 ∧
    a.rows * a.columns ≤ 262144 ∧ (2 ≤ a.page ∧ a.page ≤ 7 ∨ a.page = 255)

end Sys2Proof.Machine
end

