-- ==== Sys2Proof/Certificates/Slice0/Obligations.lean ====
section
/-! DEFINITION. The statements for the provers. -/

open Sys2Proof Sys2Proof.Machine

/-! ### The machine as a whole -/

/-- A step with a command at the front of the queue is that command's effect on the state with the
queue's rest (log 17). -/
def Obligations.StepRunsTheFrontCommand : Prop :=
  ∀ (c : Instr) (rest : List Instr) (s : State), step { s with pending := c :: rest } = exec c { s with pending := rest }

/-- On an empty queue one millisecond passes on every running timer: the silence timers, the three lamps'
phases and the page operation (R128, R155, R181). That an empty queue means a millisecond, and that a
timer stops at 0 until its expiry command, is the model's choice (log 2). -/
def Obligations.EmptyQueueLetsAMillisecondPass : Prop :=
  ∀ s : State, s.pending = [] →
    step s = .next { s with
      ports := tabMap (fun q => { q with silence := q.silence.map (· - 1) }) s.ports
      lamps := ⟨{ s.lamps.green with timer := s.lamps.green.timer - 1 },
        { s.lamps.amber with timer := s.lamps.amber.timer - 1 },
        { s.lamps.red with timer := s.lamps.red.timer - 1 }⟩
      pageOp := s.pageOp.map fun op => { op with remaining := op.remaining - 1 } }

/-- The values the collator holds at reset: an untested map store, every slot FREE with generation 0, no
lot, every port DISABLED and empty, the factory tables and profile, only IDLE active in the lamps, empty
queues and alerts enabled (R2, R11, R18, R43, R89, R130, R131, R165, R166, R173, R182). Pages 1 to 7 BLANK
and both straps low are the model's choices (log 7, log 8). -/
def Obligations.ResetValues : Prop :=
  let s := State.reset
  (∀ a, mapRead a s.map = 0) ∧
  (s.binClass 0 = .unused ∧ s.binClass 1 = .pass ∧ ∀ b : Bin, 2 ≤ b.val → s.binClass b = .fail) ∧
  (∀ i, s.waferAt i = none ∧ (tabGet s.slots i).generation = 0) ∧
  (∀ l, tabGet s.lots l = none) ∧
  (∀ p, (s.port p).settings = ⟨0, .tenMs, 0, 31⟩ ∧ (s.port p).session = .disabled ∧ (s.port p).rx = .hunt ∧
    (s.port p).intake = [] ∧ (s.port p).outbound = [] ∧ (s.port p).sending = none ∧ (s.port p).rdyOut = false ∧
    (s.port p).silence = none ∧ (s.port p).taken = 0 ∧ (s.port p).discarded = 0 ∧ (s.port p).overruns = 0 ∧
    (s.port p).faultReported = false ∧ (s.port p).serial = 0 ∧ (s.port p).maxSites = 0 ∧
    (s.port p).held = false ∧ (s.port p).touchdowns = []) ∧
  s.lampTable = ⟨⟨.red, .steady⟩, ⟨.amber, .steady⟩, ⟨.amber, .blinkOne⟩, ⟨.green, .steady⟩, ⟨.green, .blinkQuarter⟩⟩ ∧
  s.lamps = ⟨⟨some .blinkQuarter, true, 2000⟩, ⟨none, false, 0⟩, ⟨none, false, 0⟩⟩ ∧
  (s.host.divisor = 2 ∧ s.host.rx = .hunt ∧ s.host.intake = [] ∧ s.host.rdyOut = true ∧ s.host.discarded = 0 ∧
    s.host.overruns = 0 ∧ s.host.reply = none) ∧
  (s.notices = [] ∧ s.overflow = false ∧ s.alertEnable = true) ∧
  s.defaultProfile = ⟨256, 2, 2, 900, 920, 800, 850, 8, 16, 100, 200, 0, []⟩ ∧
  (s.defaultsPage = .blank ∧ (∀ i, s.profilePage i = .blank) ∧
    ∀ k : Fin 256, tabGet s.page1 k = .erased ∧ ∀ i, tabGet (tabGet s.profilePages i) k = .erased) ∧ s.pageOp = none ∧ s.pending = []

/-- Every command answers a next state in every state whose records name only cells that exist, none is
ever refused a meaning, and only LIFT, WAFER_CLOSE, WAFER_ABANDON and MAP_READ stop, and only where a
record names a cell that does not exist (R8, R168; log 13); and no command changes the queue of waiting
commands (log 17). -/
def Obligations.EveryCommandCompletes : Prop :=
  ∀ (c : Instr) (s : State),
    (s.cellsExist = true → ∃ t, exec c s = .next t) ∧
    (∀ t, exec c s = .next t → t.pending = s.pending) ∧
    ((∀ p, c ≠ .lift p) → c ≠ .waferClose → c ≠ .waferAbandon → c ≠ .mapRead → ∃ t, exec c s = .next t) ∧
    ∀ r, exec c s ≠ .refused r

/-! ### The laws every step keeps -/

/-- The state after reset keeps every law. -/
def Obligations.ResetIsSound : Prop := State.reset.Sound

/-- A sound state never stops: every step of it answers a next state (R168; log 13). -/
def Obligations.SoundStatesStep : Prop := ∀ s : State, s.Sound → ∃ t, step s = .next t

/-- Every step keeps the map store in its canonical form, with a bin of 0 exactly in an untested cell, and
the blocks of occupied slots aligned, inside the store, of their grid's size and disjoint (R5, R7, R8;
log 15). -/
def Obligations.StepsKeepTheStoreLaws : Prop := ∀ s t : State, s.Sound → step s = .next t → t.MapLaw ∧ t.BlockLaw

/-- Every step keeps a head HELD exactly while a wafer bound to it has a record RAISED at HOLD without
acknowledgement (R121). -/
def Obligations.StepsKeepTheHeldLaw : Prop := ∀ s t : State, s.HeldLaw → step s = .next t → t.HeldLaw

/-- Every step keeps each port to at most one ACTIVE or SUSPENDED wafer and at most one DRAINING, a bound
port exactly in the bound states, and an ACTIVE or DRAINING wafer's head UP (R28, R40). -/
def Obligations.StepsKeepTheBindingLaw : Prop := ∀ s t : State, s.Sound → step s = .next t → t.BindingLaw

/-- Every step keeps each lot entry's opened count equal to closed plus abandoned plus bound members, its
tested count equal to the sum of its bin counters unless saturated, and lot ids distinct (R131, R136). -/
def Obligations.StepsKeepTheLotLaw : Prop := ∀ s t : State, s.Sound → step s = .next t → t.LotLaw

/-- Every step keeps each port's session, divisor, queues, RDY-out, silence timer and list in agreement, its
intake and outbound queues at 8 frames or fewer, and what waits in the outbound queue within the numbers that
keep it so: 3 answers, one HOLD or PROCEED, an ASSIGN for each of two bound wafers, two CANCELs; and the host's
queue, its RDY-out and the notice queue within their bounds; each line's counters at most 16,777,215, and each
frame in assembly or in an intake queue within its 250 characters (R43, R140, R141, R145, R147, R149, R155,
R166, R170). That a
port disabled from DOWN or LOST has its receiver in HUNT and its transmitter idle is log 18; that an ASSIGN
leaves the queue at the moment of its wafer's unbinding is log 24. -/
def Obligations.StepsKeepTheLineLaws : Prop :=
  ∀ s t : State, s.Sound → step s = .next t → t.PortLaw ∧ t.OutboundLaw ∧ t.HostLaw

/-- Every step keeps at most 4 entries with distinct tags in each list, each naming an ACTIVE or DRAINING
wafer bound to its head, with an OPEN front; and keeps an entry for every DRAINING wafer (R25, R42, R49,
R55). -/
def Obligations.StepsKeepTheTouchdownLaw : Prop := ∀ s t : State, s.Sound → step s = .next t → t.TouchdownLaw

/-- Every step keeps every wafer's bin counters, tested-dies, pass-dies and fail-dies equal to what its
cells hold (R84). -/
def Obligations.StepsKeepTheCountLaw : Prop := ∀ s t : State, s.Sound → step s = .next t → t.CountLaw

/-- Every step keeps every profile held anywhere accepted, every divisor at most 4095 and bin 0 UNUSED, and an
operation in flight with its time or less to run, programming bytes judged VALID, on a page that keeps none of its
former contents; and a profile is accepted exactly where every field is in the range of Table 5-1 and the seven
consistency checks pass (R1, R87, R88, R140, R177, R179, R180). That such a page holds no determined byte is log 19. -/
def Obligations.StepsKeepTheSettingsLaw : Prop :=
  (∀ s t : State, s.Sound → step s = .next t → t.SettingsLaw) ∧
  ∀ prof : Profile, prof.accepted = true ↔
    ((16 ≤ prof.window ∧ prof.window ≤ 4096) ∧
      (1 ≤ prof.raiseDebounce ∧ prof.raiseDebounce ≤ 8) ∧ (1 ≤ prof.clearDebounce ∧ prof.clearDebounce ≤ 8) ∧
      prof.yieldWarnEnter ≤ 1000 ∧ prof.yieldWarnLeave ≤ 1000 ∧ prof.yieldHoldEnter ≤ 1000 ∧ prof.yieldHoldLeave ≤ 1000 ∧
      (prof.runWarn = 0 ∨ 2 ≤ prof.runWarn ∧ prof.runWarn ≤ 255) ∧ (prof.runHold = 0 ∨ 2 ≤ prof.runHold ∧ prof.runHold ≤ 255) ∧
      prof.siteWarn ≤ 1000 ∧ prof.siteHold ≤ 1000 ∧ prof.lotFloor ≤ 1000 ∧ prof.watched.length ≤ 8 ∧
      ∀ e ∈ prof.watched, 1 ≤ e.bin ∧ e.bin ≤ 63 ∧ e.warn ≤ 4096 ∧ e.hold ≤ 4096) ∧
    prof.yieldHoldEnter ≤ prof.yieldWarnEnter ∧
    prof.yieldHoldEnter ≤ prof.yieldHoldLeave ∧
    prof.yieldWarnEnter ≤ prof.yieldWarnLeave ∧
    prof.yieldHoldLeave ≤ prof.yieldWarnLeave ∧
    (∀ e ∈ prof.watched, e.warn ≠ 0 → e.hold ≠ 0 → e.warn ≤ e.hold) ∧
    (prof.runWarn ≠ 0 → prof.runHold ≠ 0 → prof.runWarn ≤ prof.runHold) ∧
    (prof.siteWarn ≠ 0 → prof.siteHold ≠ 0 → prof.siteWarn ≤ prof.siteHold)

/-- Every step keeps each lamp showing the pattern of the highest-ranked active condition assigned to it
(R126, R127, R128). -/
def Obligations.StepsKeepTheLampLaw : Prop := ∀ s t : State, s.Sound → step s = .next t → t.LampLaw

/-- Every step keeps the alarm records in the forms of Table 6-1, RUN never PENDING and BIN records beyond
the watched list CLEAR, every window not full with its counts in agreement, and every saturating counter of a
wafer's record or of a lot entry at most 16,777,215, an entry's pass and bin counters at or below its tested
(R17, R79, R80, R92, R105, R110, R116, R133). -/
def Obligations.StepsKeepTheRecordLaws : Prop :=
  ∀ s t : State, s.Sound → step s = .next t → t.AlarmLaw ∧ t.WindowLaw ∧ t.CounterLaw

/-! ### The lines -/

/-- A character that arrives at an enabled port whose line is high acts by the receiver's state: the table
of R141, with framing errors, framing faults, and the check of R142. HEAD_FRAME_RECEIVED of one character
and FRAMING_ERROR do the same. That the line is low after a low stop bit until it returns high is the
receive line phase of log 11. -/
def Obligations.ReceiverActsByItsState : Prop :=
  ∀ (s : State) (p : PortId) (c : RxChar), (s.port p).session ≠ .disabled → (s.port p).line = .high →
    exec (.headFrameReceived p [c]) s = exec (.framingError p c) s ∧
    exec (.framingError p c) s = .next (
      if c.stopHigh = false then
        s.withPort p fun q => { q with rx := .hunt, line := .low, discarded := q.discardedAfter }
      else if c.mark = true then
        s.withPort p fun q => { q with rx := .length c.value, discarded := q.discardedAfter }
      else
        match (s.port p).rx with
        | .hunt => s
        | .length k =>
          if c.value = 0 then s.withPort p fun q => { q with rx := .check k [] }
          else if c.value.toNat ≤ 250 then s.withPort p fun q => { q with rx := .payload k c.value.toNat [] }
          else s.withPort p fun q => { q with rx := .hunt, discarded := bump q.discarded }
        | .payload k n got =>
          if got.length + 1 = n then s.withPort p fun q => { q with rx := .check k (got ++ [c.value]) }
          else s.withPort p fun q => { q with rx := .payload k n (got ++ [c.value]) }
        | .check k got =>
          if c.value = crc8 (k :: BitVec.ofNat 8 got.length :: got) then
            (s.withPort p fun q => { q with rx := .hunt }).offer p ⟨k, got⟩
          else s.withPort p fun q => { q with rx := .hunt, discarded := bump q.discarded })

/-- The characters of a whole frame, received on an enabled port, offer exactly that frame: it joins the
intake queue, with RDY-out deasserted at 6 frames, or, where the queue holds 8, it is an overrun, with a
LINK_FAULT notice where fault-reported is clear; and on the host line likewise, with 3 frames, 4 and no
notice (Table 9-4, R141, R142, R145, R147, R166). That a line is high, the premise of both, is a line phase of
log 11. -/
def Obligations.WholeFramesReachTheIntake : Prop :=
  (∀ (s : State) (p : PortId) (f : Frame), (s.port p).session ≠ .disabled → (s.port p).line = .high →
    f.payload.length ≤ 250 →
    exec (.headFrameReceived p f.wire) s = .next (
      if (s.port p).intake.length < 8 then
        s.withPort p fun q => { q with
          rx := .hunt
          discarded := q.discardedAfter
          intake := q.intake ++ [f]
          rdyOut := if 6 ≤ q.intake.length + 1 then false else q.rdyOut }
      else
        let t := s.withPort p fun q => { q with
          rx := .hunt
          discarded := q.discardedAfter
          overruns := min (q.overruns + 1) 16777215
          faultReported := true }
        if (s.port p).faultReported = true then t else t.notify (.linkFault p))) ∧
  ∀ (s : State) (f : Frame), s.host.line = .high → f.payload.length ≤ 250 →
    exec (.hostFrameReceived f.wire) s = .next { s with
      host :=
        if s.host.intake.length < 4 then
          { s.host with
            rx := .hunt
            discarded := s.host.discardedAfter
            intake := s.host.intake ++ [f]
            rdyOut := if 3 ≤ s.host.intake.length + 1 then false else s.host.rdyOut }
        else
          { s.host with
            rx := .hunt
            discarded := s.host.discardedAfter
            overruns := min (s.host.overruns + 1) 16777215 } }

/-- The host line's receiver acts on a character as a head port's does, with its own counters (R166), and a
break on it, however long, is a short break; the line takes characters again once it is high (R166, R143;
the line phase is log 11). -/
def Obligations.HostReceiverAndBreaks : Prop :=
  (∀ (s : State) (c : RxChar), s.host.line = .high →
    exec (.hostFrameReceived [c]) s = exec (.hostFramingError c) s ∧
    exec (.hostFramingError c) s = .next { s with
      host :=
        if c.stopHigh = false then { s.host with rx := .hunt, line := .low, discarded := s.host.discardedAfter }
        else if c.mark = true then { s.host with rx := .length c.value, discarded := s.host.discardedAfter }
        else
          match s.host.rx with
          | .hunt => s.host
          | .length k =>
            if c.value = 0 then { s.host with rx := .check k [] }
            else if c.value.toNat ≤ 250 then { s.host with rx := .payload k c.value.toNat [] }
            else { s.host with rx := .hunt, discarded := bump s.host.discarded }
          | .payload k n got =>
            if got.length + 1 = n then { s.host with rx := .check k (got ++ [c.value]) }
            else { s.host with rx := .payload k n (got ++ [c.value]) }
          | .check k got =>
            if c.value = crc8 (k :: BitVec.ofNat 8 got.length :: got) then
              { s.host with rx := .hunt }.offer ⟨k, got⟩
            else { s.host with rx := .hunt, discarded := bump s.host.discarded } }) ∧
  (∀ s : State, s.host.line = .high ∨ s.host.line = .low →
    exec .hostShortBreak s = .next { s with
      host := { s.host with rx := .hunt, line := .shortTaken, discarded := s.host.discardedAfter } }) ∧
  (∀ s : State, s.host.line = .shortTaken ∨ s.host.line = .longTaken → exec .hostShortBreak s = .next s) ∧
  (∀ (s : State) (cs : List RxChar), s.host.line ≠ .high →
    exec (.hostFrameReceived cs) s = .next s ∧ ∀ c, exec (.hostFramingError c) s = .next s) ∧
  ∀ s : State, exec .hostBreakEnd s = .next { s with host := { s.host with line := .high } }

/-- A short break discards the frame in progress and returns the receiver to HUNT, and no character is
taken until the line has returned high; a disabled port's receiver ignores its line. The 200th low bit-time,
after the short break it contains, is a loss with cause BREAK on an UP port and nothing more on another, and
one long break causes at most one loss (R140, R143, R144). The phases of the line are the model's (log 11);
when the loss derives the lamps again is log 10. -/
def Obligations.BreaksClearTheReceiverAndResetTheLink : Prop :=
  (∀ (s : State) (p : PortId),
    ((s.port p).line = .shortTaken → (s.port p).session = .up →
      exec (.longBreak p) s =
        .next ((s.withPort p fun q => { q with line := .longTaken }).lose p .brk)) ∧
    ((s.port p).line = .shortTaken → (s.port p).session ≠ .up →
      exec (.longBreak p) s = .next (s.withPort p fun q => { q with line := .longTaken })) ∧
    ((s.port p).line = .longTaken → exec (.longBreak p) s = .next s) ∧
    ((s.port p).line = .high ∨ (s.port p).line = .low →
      exec (.longBreak p) s = exec (.longBreak p) (s.withPort p fun q =>
        { q with rx := .hunt, line := .shortTaken, discarded := q.discardedAfter }))) ∧
  (∀ (s : State) (p : PortId), (s.port p).line = .high ∨ (s.port p).line = .low →
    exec (.shortBreak p) s = .next (s.withPort p fun q =>
      { q with rx := .hunt, line := .shortTaken, discarded := q.discardedAfter })) ∧
  (∀ (s : State) (p : PortId), (s.port p).line = .shortTaken ∨ (s.port p).line = .longTaken →
    exec (.shortBreak p) s = .next s) ∧
  (∀ (s : State) (p : PortId) (cs : List RxChar), (s.port p).line ≠ .high ∨ (s.port p).session = .disabled →
    exec (.headFrameReceived p cs) s = .next s ∧ ∀ c, exec (.framingError p c) s = .next s) ∧
  ∀ (s : State) (p : PortId), exec (.breakEnd p) s = .next (s.withPort p fun q => { q with line := .high })

/-- The transmitter of an enabled port begins the front frame of the outbound queue only while RDY-in is
asserted, taking it from the queue as it begins; it finishes a frame whatever RDY-in does, and then begins
the next one if RDY-in is asserted. The kind and the payload of each frame are those of Tables 8-3 and 9-6,
most significant character first; its characters on the line are the kind with the mark high, then the length,
the payload and the check, a CRC-8 over all before it (R140, R142, R146, R176, Table 9-4). That each command
carries RDY-in's level is log 6; that FRAME_FINISHED while no frame is in transmission changes nothing, and that
HEAD_FRAME_SEND where none can begin only keeps the level, is log 28. -/
def Obligations.TransmitterSendsInOrder : Prop :=
  (∀ (s : State) (p : PortId) (f : HeadOut) (rest : List HeadOut), (s.port p).session ≠ .disabled →
    (s.port p).outbound = f :: rest →
    ((s.port p).sending = none →
      exec (.headFrameSend p true) s = .next (s.withPort p fun q =>
        { q with rdyIn := true, outbound := rest, sending := some ⟨f, q.settings.divisor⟩ })) ∧
    ((s.port p).sending.isSome = true →
      exec (.frameFinished p true) s = .next (s.withPort p fun q =>
        { q with rdyIn := true, outbound := rest, sending := some ⟨f, q.settings.divisor⟩ }))) ∧
  (∀ (s : State) (p : PortId),
    exec (.headFrameSend p false) s = .next (s.withPort p fun q => { q with rdyIn := false }) ∧
    ((s.port p).sending.isSome = true →
      exec (.frameFinished p false) s = .next (s.withPort p fun q => { q with rdyIn := false, sending := none })) ∧
    ((s.port p).sending.isSome = true → (s.port p).outbound = [] →
      exec (.frameFinished p true) s = .next (s.withPort p fun q => { q with rdyIn := true, sending := none }))) ∧
  (∀ (s : State) (p : PortId) (b : Bool),
    (s.port p).sending.isSome = true ∨ (s.port p).outbound = [] ∨ (s.port p).session = .disabled →
    exec (.headFrameSend p b) s = .next (s.withPort p fun q => { q with rdyIn := b })) ∧
  (∀ (s : State) (p : PortId) (b : Bool), (s.port p).sending = none → exec (.frameFinished p b) s = .next s) ∧
  (∀ f : HeadOut, (f.kind, f.payload) =
    match f with
    | .welcome p ms resumed =>
      (0x21, [BitVec.ofNat 8 p.val, BitVec.ofNat 8 (ms / 65536), BitVec.ofNat 8 (ms / 256), BitVec.ofNat 8 ms] ++
        match resumed with | none => [] | some h => [h])
    | .assign h lot n rows columns policy =>
      (0x22, [h] ++ lot ++ [n, BitVec.ofNat 8 (rows / 256), BitVec.ofNat 8 rows, BitVec.ofNat 8 (columns / 256),
        BitVec.ofNat 8 columns, match policy with | .first => 0 | .last => 1 | .best => 2])
    | .touchAck h tag reason =>
      (0x23, [h, tag, match reason with
        | .accepted => 0 | .badWafer => 1 | .held => 2 | .listFull => 3 | .dupTag => 4 | .badSite => 5 | .dupDie => 6])
    | .refuse k reason r1 r2 =>
      (0x24, [k, (match reason with
        | .notUp => 1 | .badWafer => 2 | .stillDraining => 3 | .noTouch => 4 | .isSealed => 5 | .notListed => 6
        | .duplicate => 7 | .badBin => 8 | .badLength => 15), r1, r2])
    | .hold h src => (0x25, [h, BitVec.ofNat 8 src.val])
    | .proceed h => (0x26, [h])
    | .cancel h => (0x27, [h])) ∧
  (∀ f : Frame, f.wire = ⟨f.kind, true, true⟩ ::
    (BitVec.ofNat 8 f.payload.length :: (f.payload ++ [crc8 (f.kind :: BitVec.ofNat 8 f.payload.length :: f.payload)])).map
      fun c => ⟨c, false, true⟩) ∧
  crc8 [] = 0 ∧
  ∀ (cs : List Byte) (c : Byte), crc8 (cs ++ [c]) =
    (List.range 8).foldl (fun (r : Byte) _ => if r.getLsbD 7 = true then (r <<< 1) ^^^ 0x07 else r <<< 1) (crc8 cs ^^^ c)

/-! ### Head frames -/

/-- A frame taken from the front of the intake queue leaves it, RDY-out is asserted at 4 frames or fewer,
frames taken rises, and in an UP session a kind in the reload mask, and ANNOUNCE always, reloads the
silence timer with a full period, stopped where the count is 0. A BEAT does nothing else, one with a
payload is refused; a frame of no head frame kind is discarded and counted, and reloads nothing (R145,
R147, R148, R154, R155). -/
def Obligations.TakingAHeadFrame : Prop :=
  (∀ l : LineSettings, l.periodMs = match l.units with | .tenMs => l.count.toNat * 10 | .oneS => l.count.toNat * 1000) ∧
  (∀ (s : State) (p : PortId) (bs : List Byte) (rest : List Frame), s.HeadFinds p 0x16 bs rest →
    (s.port p).session = .up →
    exec (.beat p) s = .next (s.withPort p fun q => { q.taking rest with
      silence := if q.settings.mask.getLsbD 4 = true then q.settings.loaded else q.silence
      outbound := if bs = [] then q.outbound else q.outbound ++ [.refuse 0x16 .badLength 0 0] })) ∧
  (∀ (s : State) (p : PortId) (k : Byte) (bs : List Byte) (rest : List Frame), s.HeadFinds p k bs rest →
    ¬(0x11 ≤ k.toNat ∧ k.toNat ≤ 0x16) →
    exec (.nonHeadFrame p) s = .next (s.withPort p fun q => { q with
      intake := rest, rdyOut := if rest.length ≤ 4 then true else q.rdyOut, discarded := min (q.discarded + 1) 16777215 })) ∧
  (∀ (q : Port) (k : Byte) (rest : List Frame), 0x11 ≤ k.toNat → k.toNat ≤ 0x16 →
    q.takeFrame k rest = { q.taking rest with
      silence :=
        if q.session = .up ∧ (k = 0x11 ∨ q.settings.mask.getLsbD (k.toNat - 0x12) = true ∧ k ≠ 0x11) then
          q.settings.loaded
        else q.silence }) ∧
  ∀ l : LineSettings, l.loaded =
    if l.count = 0 then none
    else some (match l.units with | .tenMs => l.count.toNat * 10 | .oneS => l.count.toNat * 1000)

/-- A frame of a head frame kind other than ANNOUNCE, taken while the session is not UP, is refused with
NOT_UP, its kind and its first two payload characters, and nothing else changes; a disabled port takes no
frame (R151). -/
def Obligations.FramesBeforeASessionAreRefused : Prop :=
  ∀ (s : State) (p : PortId) (c : Instr) (k : Byte) (bs : List Byte) (rest : List Frame),
    (c, k) ∈ frameCommands p → s.cellsExist = true → s.HeadFinds p k bs rest → (s.port p).session ≠ .up →
    exec c s = .next (s.withPort p fun q =>
      { q.taking rest with outbound := q.outbound ++ [.refuse k .notUp (bs.getD 0 0) (bs.getD 1 0)] }) ∧
    ∀ t : State, t.cellsExist = true → (t.port p).session = .disabled → exec c t = .next t

/-- While 3 or more frames wait in the outbound queue no frame is taken (R148), and while a reply waits no
command is (R167). That a command which finds another kind at the front of its queue changes nothing is the
model's choice (log 1). -/
def Obligations.NothingIsTakenOutOfTurn : Prop :=
  (∀ (s : State) (p : PortId) (c : Instr) (k : Byte), (c, k) ∈ (Instr.announce p, (0x11 : Byte)) :: frameCommands p →
    s.cellsExist = true →
    3 ≤ (s.port p).outbound.length ∨ (s.port p).session = .disabled ∨
      (∀ f rest, (s.port p).intake = f :: rest → f.kind ≠ k) →
    exec c s = .next s) ∧
  (∀ (s : State) (p : PortId),
    3 ≤ (s.port p).outbound.length ∨ (s.port p).session = .disabled ∨
      (∀ f rest, (s.port p).intake = f :: rest → 0x11 ≤ f.kind.toNat ∧ f.kind.toNat ≤ 0x16) →
    exec (.nonHeadFrame p) s = .next s) ∧
  (∀ (s : State) (c : Instr) (k : Byte), (c, k) ∈ hostCommands → s.cellsExist = true →
    s.host.reply.isSome = true ∨ (∀ f rest, s.host.intake = f :: rest → f.kind ≠ k) →
    exec c s = .next s) ∧
  ∀ s : State, s.host.reply.isSome = true ∨ (∀ f rest, s.host.intake = f :: rest → ∃ c, (c, f.kind) ∈ hostCommands) →
    exec .unknownKind s = .next s

/-- TOUCH, LIFT, UNLOAD and ANNOUNCE of a wrong length, and an ANNOUNCE of no site count from 1 to 16,
are refused with BAD_LENGTH and their references, and nothing else changes (R24, R45, R53, R54, R152). -/
def Obligations.MalformedHeadFramesAreRefused : Prop :=
  ∀ (s : State) (p : PortId) (bs : List Byte) (rest : List Frame),
    (s.HeadFinds p 0x12 bs rest → (s.port p).session = .up → bs.length < 3 ∨ bs.length ≠ 3 + 5 * (bs.getD 2 0).toNat →
      exec (.touch p) s = .next ((s.withPort p fun q => q.takeFrame 0x12 rest).queueOut p
        (.refuse 0x12 .badLength (bs.getD 0 0) (bs.getD 1 0)))) ∧
    (s.HeadFinds p 0x14 bs rest → (s.port p).session = .up → s.cellsExist = true → bs.length ≠ 1 →
      exec (.lift p) s = .next ((s.withPort p fun q => q.takeFrame 0x14 rest).queueOut p
        (.refuse 0x14 .badLength (bs.getD 0 0) 0))) ∧
    (s.HeadFinds p 0x15 bs rest → (s.port p).session = .up → bs.length ≠ 1 →
      exec (.unload p) s = .next ((s.withPort p fun q => q.takeFrame 0x15 rest).queueOut p
        (.refuse 0x15 .badLength (bs.getD 0 0) 0))) ∧
    (s.HeadFinds p 0x11 bs rest →
      bs.length ≠ 5 ∧ bs.length ≠ 6 ∨ (bs.getD 4 0).toNat = 0 ∨ 16 < (bs.getD 4 0).toNat →
      exec (.announce p) s = .next ((s.withPort p fun q => q.takeFrame 0x11 rest).queueOut p
        (.refuse 0x11 .badLength (bs.getD 4 0) 0)))

/-- A TOUCH of well-formed length is answered with one TOUCH_ACK whose reason is the first failing check of
Table 3-2, and only an accepted one appends its entry, OPEN with every result absent (R46, R47, R48, R49,
R50). -/
def Obligations.TouchesAreJudgedInOrder : Prop :=
  ∀ (s : State) (p : PortId) (h tag : Byte) (ds : List RawSite) (rest : List Frame),
    touchFits ds → s.HeadFinds p 0x12 (touchPayload h tag ds) rest → (s.port p).session = .up →
    exec (.touch p) s = .next (
      let reason : TouchReason :=
        match (s.resolve h).bind s.waferAt with
        | none => .badWafer
        | some w =>
          if w.state ≠ .active ∨ w.boundPort ≠ some p then .badWafer
          else if (s.port p).held = true then .held
          else if 4 ≤ (s.port p).touchdowns.length then .listFull
          else if ∃ e ∈ (s.port p).touchdowns, e.tag = tag then .dupTag
          else if ds.length = 0 ∨ (s.port p).maxSites < ds.length ∨ (∃ d ∈ ds, 15 < d.number) ∨
            ¬(ds.map (·.number)).Nodup ∨ (∃ d ∈ ds, w.columns ≤ d.column ∨ w.rows ≤ d.row) then .badSite
          else if ¬(ds.map fun d => (d.column, d.row)).Nodup then .dupDie
          else .accepted
      s.withPort p fun q => { q.takeFrame 0x12 rest with
        outbound := q.outbound ++ [.touchAck h tag reason]
        touchdowns :=
          if reason = .accepted then
            q.touchdowns ++ [⟨tag, h, .isOpen, ds.map fun d => ⟨Fin.ofNat 16 d.number, d.column, d.row, none⟩⟩]
          else q.touchdowns })

/-- A SITE is refused for the first failing check of R51 and otherwise sets the result of its site in its
entry and nothing else (R51, R52). -/
def Obligations.SitesStoreTheirResults : Prop :=
  (∀ (s : State) (p : PortId) (bs : List Byte) (rest : List Frame), s.HeadFinds p 0x13 bs rest →
    (s.port p).session = .up → bs.length ≠ 3 →
    exec (.site p) s = .next ((s.withPort p fun q => q.takeFrame 0x13 rest).queueOut p
      (.refuse 0x13 .badLength (bs.getD 0 0) (bs.getD 1 0)))) ∧
  ∀ (s : State) (p : PortId) (tag n b : Byte) (rest : List Frame),
    s.HeadFinds p 0x13 [tag, n, b] rest → (s.port p).session = .up →
    exec (.site p) s = .next (
      let taken := s.withPort p fun q => q.takeFrame 0x13 rest
      let refuse := fun r => taken.queueOut p (.refuse 0x13 r tag n)
      match (s.port p).touchdowns.find? (fun e => e.tag = tag) with
      | none => refuse .noTouch
      | some e =>
        if e.state = .isSealed then refuse .isSealed
        else
          match e.sites.find? (fun d => d.number.val = n.toNat) with
          | none => refuse .notListed
          | some d =>
            if d.result.isSome = true then refuse .duplicate
            else if 63 < b.toNat ∨ b ≠ 0 ∧ s.binClass (Fin.ofNat 64 b.toNat) = .unused then refuse .badBin
            else
              taken.withPort p fun q => { q with
                touchdowns := q.touchdowns.map fun e =>
                  if e.tag = tag then
                    { e with sites := e.sites.map fun d =>
                        if d.number.val = n.toNat then { d with result := some (Fin.ofNat 64 b.toNat) } else d }
                  else e })

/-- A LIFT is refused with NO_TOUCH or SEALED, or seals its entry. Behind the front it changes nothing else;
at the front it starts the pass: as long as the front is SEALED it is applied, leaves the list, and its
wafer, DRAINING with no entry left, closes with cause UNLOADED (R53, R55, R56). The lamps follow each record's
transition, latch and unbinding inside the pass: log 10. -/
def Obligations.LiftsSealAndTheFrontIsApplied : Prop :=
  (∀ (s : State) (p : PortId) (tag : Byte) (rest : List Frame),
    s.cellsExist = true → s.HeadFinds p 0x14 [tag] rest → (s.port p).session = .up →
    exec (.lift p) s = .next (
      let taken := s.withPort p fun q => q.takeFrame 0x14 rest
      let sealed := (s.port p).touchdowns.map fun e => if e.tag = tag then { e with state := .isSealed } else e
      match (s.port p).touchdowns.find? (fun e => e.tag = tag) with
      | none => taken.queueOut p (.refuse 0x14 .noTouch tag 0)
      | some e =>
        if e.state = .isSealed then taken.queueOut p (.refuse 0x14 .isSealed tag 0)
        else if (s.port p).touchdowns.head?.map (·.tag) = some tag then
          (taken.withPort p fun q => { q with touchdowns := sealed }).pass p sealed
        else taken.withPort p fun q => { q with touchdowns := sealed })) ∧
  (∀ (s : State) (p : PortId), s.pass p [] = s) ∧
  ∀ (s : State) (p : PortId) (e : Entry) (rest : List Entry),
    s.pass p (e :: rest) =
      if e.state = .isOpen then s
      else
        let t := (s.applyEntry e).withPort p fun q => { q with touchdowns := rest }
        let u :=
          match t.resolve e.handle with
          | none => t
          | some i =>
            if (t.waferAt i).map (fun w : Wafer => w.state) = some WaferState.draining ∧ ∀ d ∈ rest, d.handle ≠ e.handle then
              t.enterClosed i .unloaded
            else t
        u.pass p rest

/-- An entry is applied site by site in ascending site number, each site once, and then the map revision,
which wraps, and touchdowns-applied rise by 1 (R14, R67, R68, R83). -/
def Obligations.EntriesAreAppliedWhole : Prop :=
  (∀ e : Entry, (e.sites.map (·.number)).Nodup →
    e.ascending.Perm e.sites ∧ e.ascending.Pairwise fun c d => c.number < d.number) ∧
  ∀ (s : State) (e : Entry) (i : SlotId) (w : Wafer), s.resolve e.handle = some i → s.waferAt i = some w →
    s.applyEntry e = (e.ascending.foldl (State.applySite i) s).withWafer i fun w =>
      { w with revision := w.revision + 1, touchdownsApplied := min (w.touchdownsApplied + 1) 16777215 }

/-- A site by its result and its die's cell: missing, skipped, first test, retest and excess, with the cell
and the counters each writes, a cell being its test count in bits 7 to 6 and its bin in bits 5 to 0 (Table 9-5), in a
store that reads back what was written; the kept bin of a retest by the policy (R69, R70, R71, R72, R73, R74, R75,
R76, R77). -/
def Obligations.SitesAreAppliedByResultAndCell : Prop :=
  (∀ (m : List Host.Cell) (a b : Nat) (v : Byte), mapWf m → mapRead b (mapWrite a v m) = if b = a then v else mapRead b m) ∧
  (∀ c : Byte, cellCount c = c.toNat / 64 ∧ (cellBin c).val = c.toNat % 64) ∧
  (∀ n ≤ 3, ∀ b : Bin, (mkCell n b).toNat = 64 * n + b.val) ∧
  (∀ (s : State) (i : SlotId) (w : Wafer) (d : SiteEntry), s.waferAt i = some w →
    let a := w.base + d.row * w.columns + d.column
    let c := mapRead a s.map
    (d.result = none →
      s.applySite i d = s.withWafer i fun w => { w with missingSites := min (w.missingSites + 1) 16777215 }) ∧
    (d.result = some 0 →
      s.applySite i d = s.withWafer i fun w => { w with skippedSites := min (w.skippedSites + 1) 16777215 }) ∧
    ∀ r : Bin, d.result = some r → r ≠ 0 →
      (cellCount c = 0 →
        s.applySite i d = ({ s with map := mapWrite a (mkCell 1 r) s.map }.withWafer i fun w => { w with
          bins := tabModify w.bins r (· + 1)
          tested := w.tested + 1
          passDies := if s.binClass r = BinClass.pass then w.passDies + 1 else w.passDies
          failDies := if s.binClass r = BinClass.fail then w.failDies + 1 else w.failDies }).feedResult i false d.number r) ∧
      (cellCount c = 1 ∨ cellCount c = 2 →
        let b := cellBin c
        let k := keptBin w.policy s.binClass b r
        s.applySite i d = ({ s with map := mapWrite a (mkCell (cellCount c + 1) k) s.map }.withWafer i fun w => { w with
          bins := if k = b then w.bins else tabModify (tabModify w.bins b (· - 1)) k (· + 1)
          passDies :=
            if s.binClass b = BinClass.fail ∧ s.binClass k = BinClass.pass then w.passDies + 1
            else if s.binClass b = BinClass.pass ∧ s.binClass k = BinClass.fail then w.passDies - 1
            else w.passDies
          failDies :=
            if s.binClass b = BinClass.fail ∧ s.binClass k = BinClass.pass then w.failDies - 1
            else if s.binClass b = BinClass.pass ∧ s.binClass k = BinClass.fail then w.failDies + 1
            else w.failDies }).feedResult i true d.number r) ∧
      (cellCount c = 3 →
        s.applySite i d = s.withWafer i fun w => { w with excessResults := min (w.excessResults + 1) 16777215 })) ∧
  (∀ (cls : Bin → BinClass) (b r : Bin), keptBin .first cls b r = b ∧ keptBin .last cls b r = r) ∧
  (∀ (cls : Bin → BinClass) (b r : Bin), cls b = .pass → cls r = .fail →
    keptBin .best cls b r = b ∧ keptBin .best cls r b = b) ∧
  ∀ (cls : Bin → BinClass) (b r : Bin), cls b = cls r → b ≤ r →
    keptBin .best cls b r = b ∧ keptBin .best cls r b = b

/-- An applied result raises results-applied, and retest-results for a retest, feeds the window, the site
statistics and the run, gives the RUN verdict, and closes the window when its count equals the active
window length, in this order (R78, R79, R80, R81, R82). -/
def Obligations.AppliedResultsAreFedInOrder : Prop :=
  ∀ (s : State) (i : SlotId) (w : Wafer) (retest : Bool) (n : SiteId) (r : Bin), s.waferAt i = some w →
    let c := s.binClass r
    let run := match c with | .fail => min (w.run + 1) 16777215 | .pass => 0 | .unused => w.run
    let verdict : Verdict :=
      if w.active.runHold ≠ 0 ∧ w.active.runHold ≤ run then .hold
      else if w.active.runWarn ≠ 0 ∧ w.active.runWarn ≤ run then .warn
      else .within
    let fed := s.withWafer i fun w => { w with
      resultsApplied := min (w.resultsApplied + 1) 16777215
      retestResults := if retest = true then min (w.retestResults + 1) 16777215 else w.retestResults
      window := { w.window with
        count := w.window.count + 1
        pass := if c = .pass then w.window.pass + 1 else w.window.pass
        fail := if c = .fail then w.window.fail + 1 else w.window.fail
        siteResults := tabModify w.window.siteResults n (· + 1)
        siteFails := if c = .fail then tabModify w.window.siteFails n (· + 1) else w.window.siteFails
        watched := Vector.ofFn fun j =>
          if (w.active.watched[j.val]?).map (·.bin) = some r.val then tabGet w.window.watched j + 1
          else tabGet w.window.watched j }
      run := run }
    s.feedResult i retest n r =
      if w.window.count + 1 = w.active.window then (State.giveVerdict i fed (runSource, verdict)).closeWindow i
      else State.giveVerdict i fed (runSource, verdict)

/-! ### Verdicts, alarms, holds and windows -/

/-- The verdicts of a closing window: the yield verdict of the window yield with its hysteresis, the
watched-bin verdict of each entry's count, and the site verdict by the deficit against the other qualifying
sites; and the order in which a close gives them (R94, R97, R98, R99, R101). That a site qualifies by its
count alone, whatever number of sites the head announced, is log 27. -/
def Obligations.VerdictsFollowTheirLimits : Prop :=
  (∀ (p : Profile) (level : Option Level) (y : Nat),
    let hold := p.yieldHoldEnter ≠ 0 ∧ (y < p.yieldHoldEnter ∨ level = some .hold ∧ y ≤ p.yieldHoldLeave)
    let warn := p.yieldWarnEnter ≠ 0 ∧ (y < p.yieldWarnEnter ∨ level.isSome = true ∧ y ≤ p.yieldWarnLeave)
    (yieldVerdict p level y = .hold ↔ hold) ∧ (yieldVerdict p level y = .warn ↔ ¬hold ∧ warn)) ∧
  (∀ (e : Watched) (c : Nat),
    (watchedVerdict e c = .hold ↔ e.hold ≠ 0 ∧ e.hold < c) ∧
    (watchedVerdict e c = .warn ↔ ¬(e.hold ≠ 0 ∧ e.hold < c) ∧ e.warn ≠ 0 ∧ e.warn < c)) ∧
  (∀ (p : Profile) (w : Window) (n : SiteId),
    let qualifying := siteIds.filter fun k => 8 ≤ tabGet w.siteResults k
    let others := qualifying.filter fun k => k ≠ n
    let pass := fun k => tabGet w.siteResults k - tabGet w.siteFails k
    let deficit := 1000 * (others.map pass).sum / (others.map fun k => tabGet w.siteResults k).sum -
      1000 * pass n / tabGet w.siteResults n
    let judged := 2 ≤ qualifying.length ∧ n ∈ qualifying
    (siteVerdict p w n = .hold ↔ judged ∧ p.siteHold ≠ 0 ∧ p.siteHold < deficit) ∧
    (siteVerdict p w n = .warn ↔ judged ∧ ¬(p.siteHold ≠ 0 ∧ p.siteHold < deficit) ∧ p.siteWarn ≠ 0 ∧ p.siteWarn < deficit)) ∧
  ∀ (p : Profile) (w : Window) (a : Alarm), p.watched.length ≤ 8 →
    (closingVerdicts p w a).map (fun v => (v.1.val, v.2)) =
      (0, yieldVerdict p (if a.state = .clear then none else a.level) (1000 * w.pass / p.window)) ::
        (p.watched.zipIdx.map fun e => (e.2 + 2, watchedVerdict e.1 (tabGet w.watched (Fin.ofNat 8 e.2)))) ++
        siteIds.map fun n => (n.val + 10, siteVerdict p w n)

/-- A record acts on a verdict as Table 6-3 says, with raise debounce `rd` and clear debounce `cd`: the
record it becomes, and whether that is a raise, an escalation or a clearing (R112, R113, R114, R115). -/
def Obligations.RecordsFollowTable63 : Prop :=
  ∀ (rd cd n : Nat) (l : Level) (acked : Bool) (v : Verdict),
    let pending := fun (l : Level) (n : Nat) =>
      if rd ≤ n then ((⟨.raised, some l, false, 0⟩ : Alarm), AlarmEvent.raised l) else (⟨.pending, some l, false, n⟩, .none)
    let clearing := fun (l : Level) (n : Nat) =>
      if cd ≤ n then ((⟨.clear, none, false, 0⟩ : Alarm), AlarmEvent.cleared l)
      else (⟨.clearing, some l, decide (l = .hold), n⟩, .none)
    let clear : Alarm := ⟨.clear, none, false, 0⟩
    (alarmStep rd cd clear .within = (clear, .none) ∧ alarmStep rd cd clear .warn = pending .warn 1 ∧
      alarmStep rd cd clear .hold = pending .hold 1) ∧
    (alarmStep rd cd ⟨.pending, some l, acked, n⟩ .within = (clear, .none) ∧
      alarmStep rd cd ⟨.pending, some l, acked, n⟩ .warn = pending .warn (n + 1) ∧
      alarmStep rd cd ⟨.pending, some l, acked, n⟩ .hold = pending .hold (n + 1)) ∧
    (alarmStep rd cd ⟨.raised, some .warn, acked, n⟩ .within = clearing .warn 1 ∧
      alarmStep rd cd ⟨.raised, some .warn, acked, n⟩ .warn = (⟨.raised, some .warn, acked, n⟩, .none) ∧
      alarmStep rd cd ⟨.raised, some .warn, acked, n⟩ .hold = (⟨.raised, some .hold, false, 0⟩, .escalated)) ∧
    alarmStep rd cd ⟨.raised, some .hold, false, n⟩ v = (⟨.raised, some .hold, false, n⟩, .none) ∧
    (alarmStep rd cd ⟨.raised, some .hold, true, n⟩ .within = clearing .hold 1 ∧
      alarmStep rd cd ⟨.raised, some .hold, true, n⟩ .warn = (⟨.raised, some .warn, false, 0⟩, .none) ∧
      alarmStep rd cd ⟨.raised, some .hold, true, n⟩ .hold = (⟨.raised, some .hold, true, n⟩, .none)) ∧
    (alarmStep rd cd ⟨.clearing, some l, acked, n⟩ .within = clearing l (n + 1)) ∧
    (alarmStep rd cd ⟨.clearing, some .warn, acked, n⟩ .warn = (⟨.raised, some .warn, false, 0⟩, .none) ∧
      alarmStep rd cd ⟨.clearing, some .warn, acked, n⟩ .hold = (⟨.raised, some .hold, false, 0⟩, .escalated)) ∧
    (alarmStep rd cd ⟨.clearing, some .hold, acked, n⟩ .warn = (⟨.raised, some .hold, true, 0⟩, .none) ∧
      alarmStep rd cd ⟨.clearing, some .hold, acked, n⟩ .hold = (⟨.raised, some .hold, true, 0⟩, .none))

/-- What a verdict does beside its record: a raise counts in alarms-raised, raises and escalations queue
ALARM_RAISED and at HOLD judge the port, a clearing queues ALARM_CLEARED; RUN's raise debounce is 1; and the
lamps follow (R112, R113, R115, R116, R117, R126). That they follow each record's verdict, not the end of the
longer event, is log 10. -/
def Obligations.AlarmChangesAreReported : Prop :=
  ∀ (s : State) (i : SlotId) (w : Wafer) (p : PortId) (src : Source) (v : Verdict),
    s.waferAt i = some w → w.boundPort = some p →
    State.giveVerdict i s (src, v) =
      let r := alarmStep (if src.val = 1 then 1 else w.active.raiseDebounce) w.active.clearDebounce (tabGet w.alarms src) v
      let h := s.handleOf i
      let t := s.withWafer i fun w => { w with alarms := tabSet w.alarms src r.1 }
      let counted := t.withWafer i fun w => { w with alarmsRaised := min (w.alarmsRaised + 1) 16777215 }
      let u :=
        match r.2 with
        | .none => t
        | .raised .warn => counted.notify (.alarmRaised (some p) h src .warn)
        | .raised .hold => (counted.notify (.alarmRaised (some p) h src .hold)).judgeHeld p h (some src)
        | .escalated => (t.notify (.alarmRaised (some p) h src .hold)).judgeHeld p h (some src)
        | .cleared l => t.notify (.alarmCleared (some p) h src l)
      u.settleLamps

/-- Judging a port's HELD state again: nothing where it agrees with its wafers' records; on a change, the
HOLD or PROCEED frame while the session is UP, which takes an earlier one out of the queue, then the HOLD
line, then the notice, and the lamps follow; where no record raised the hold, the wafer's first holding record
is named (R121, R122, R123, R124, R149). That the lamps follow here, inside a longer event too, is log 10. -/
def Obligations.HeldChangesAreReported : Prop :=
  (∀ a : Alarm, a.holds = true ↔ a.state = .raised ∧ a.level = some .hold ∧ a.acked = false) ∧
  (∀ w : Wafer, (w.holds = true ↔ ∃ src, (tabGet w.alarms src).holds = true) ∧
    ∀ p, w.boundTo p = true ↔ w.state.isBound = true ∧ w.boundPort = some p) ∧
  (∀ st : WaferState, st.isBound = true ↔ st = .active ∨ st = .draining ∨ st = .suspended) ∧
  (∀ (s : State) (h : Byte) (i : SlotId) (w : Wafer) (src : Source), s.resolve h = some i → s.waferAt i = some w →
    (tabGet w.alarms src).holds = true → (∀ k < src, (tabGet w.alarms k).holds = false) → s.firstHoldOf h = src) ∧
  (∀ (s : State) (p : PortId), s.heldBy p = true ↔
    ∃ i w src, s.waferAt i = some w ∧ w.state.isBound = true ∧ w.boundPort = some p ∧
      (tabGet w.alarms src).state = .raised ∧ (tabGet w.alarms src).level = some .hold ∧ (tabGet w.alarms src).acked = false) ∧
  ∀ (s : State) (p : PortId) (h : Byte) (src : Source),
    let waiting := fun (q : Port) => q.outbound.filter fun f => !f.isHoldFrame
    (s.heldBy p = (s.port p).held → ∀ o, s.judgeHeld p h o = s) ∧
    (s.heldBy p = true → (s.port p).held = false →
      s.judgeHeld p h (some src) = ((s.withPort p fun q => { q with
        held := true
        outbound := if q.session = .up then waiting q ++ [.hold h src] else q.outbound }).notify
          (.holdOn p h src)).settleLamps) ∧
    (∀ i w, s.resolve h = some i → s.waferAt i = some w → (tabGet w.alarms src).holds = true →
      (∀ k < src, (tabGet w.alarms k).holds = false) → s.judgeHeld p h none = s.judgeHeld p h (some src)) ∧
    (s.heldBy p = false → (s.port p).held = true → ∀ o,
      s.judgeHeld p h o = ((s.withPort p fun q => { q with
        held := false
        outbound := if q.session = .up then waiting q ++ [.proceed h] else q.outbound }).notify
          (.holdOff p h)).settleLamps)

/-- A window close gives the verdicts of the closing window, latches the staged profile, raises
windows-closed and clears every count; a latch sets the BIN records at or beyond the new watched count to
CLEAR and judges the port again where one of them held it, and the lamps follow (R93, R105, R126). That a profile
LIMITS_STAGE carried keeps source 0xFE as the active one is log 26; that the lamps follow the latch, not the end
of the longer event, is log 10. -/
def Obligations.WindowsCloseInOrder : Prop :=
  (∀ (s : State) (i : SlotId) (w : Wafer), s.waferAt i = some w →
    s.closeWindow i =
      (((closingVerdicts w.active w.window (tabGet w.alarms 0)).foldl (State.giveVerdict i) s).latch i).withWafer i
        fun w => { w with
          windowsClosed := min (w.windowsClosed + 1) 16777215
          window := ⟨0, 0, 0, Vector.replicate 16 0, Vector.replicate 16 0, Vector.replicate 8 0⟩ }) ∧
  (∀ (s : State) (i : SlotId) (w : Wafer), s.waferAt i = some w → w.staged = none → s.latch i = s) ∧
  ∀ (s : State) (i : SlotId) (w : Wafer) (st : Staged) (p : PortId),
    s.waferAt i = some w → w.staged = some st → w.boundPort = some p →
    let n := st.profile.watched.length
    let t := s.withWafer i fun w => { w with
      active := st.profile
      activeSource := st.source
      staged := none
      alarms := Vector.ofFn fun src : Source =>
        if n + 2 ≤ src.val ∧ src.val < 10 then ⟨.clear, none, false, 0⟩ else tabGet w.alarms src }
    s.latch i =
      (if ∃ j : Fin 8, n ≤ j.val ∧ (tabGet w.alarms (binSource j)).holds = true then t.judgeHeld p (s.handleOf i) none
      else t).settleLamps

/-! ### Wafers, sessions and lots -/

/-- An UNLOAD that passes closes a wafer without entries at once and makes one with entries DRAINING; it
is refused for an unknown, not ACTIVE or foreign wafer, and while another wafer of the port is DRAINING
(R24, R25, R65). The lamps follow an UNLOAD that makes its wafer DRAINING (R126); that they are derived at it is
log 10. -/
def Obligations.UnloadsCloseOrDrain : Prop :=
  ∀ (s : State) (p : PortId) (h : Byte) (rest : List Frame),
    s.HeadFinds p 0x15 [h] rest → (s.port p).session = .up →
    exec (.unload p) s = .next (
      let taken := s.withPort p fun q => q.takeFrame 0x15 rest
      let refuse := fun r => taken.queueOut p (.refuse 0x15 r h 0)
      match s.resolve h with
      | none => refuse .badWafer
      | some i =>
        if (s.waferAt i).map (fun w => (w.state, w.boundPort)) ≠ some (WaferState.active, some p) then refuse .badWafer
        else if ∀ e ∈ (s.port p).touchdowns, e.handle ≠ h then taken.enterClosed i .unloaded
        else if ∃ j, j ≠ i ∧ (s.waferAt j).map (fun w => (w.state, w.boundPort)) = some (WaferState.draining, some p) then
          refuse .stillDraining
        else (taken.withWafer i fun w => { w with state := .draining }).settleLamps)

/-- A wafer enters CLOSED in the order of R26: its record, the WAFER_CLOSED notice, the roll-up into its
lot entry and the judgement of the lot floor, then HELD of the port it was bound to; an ASSIGN of it that
still waits is taken out. It enters ABANDONED in the order of R34: its record, its lot entry's abandoned
count, then HELD. A frame joins an outbound queue at the back; a HOLD or PROCEED takes an earlier one out, and a
CANCEL takes a waiting ASSIGN of its wafer out and is dropped with it. The lamps follow the unbinding (R26, R34, R126, R133, R134, R135, R149). That the ASSIGN leaves at the
unbinding is log 24; that the lamps follow here, inside a longer event too, is log 10. -/
def Obligations.WafersEndInOrder : Prop :=
  (∀ (s : State) (i : SlotId) (w : Wafer) (p : PortId) (l : LotId) (e : Lot) (cause : CloseCause),
    s.waferAt i = some w → w.boundPort = some p → w.lotEntry = some l → tabGet s.lots l = some e →
    s.enterClosed i cause =
      let h := s.handleOf i
      let floor := w.active.lotFloor
      let tested := min (e.tested + w.tested) 16777215
      let pass := min (e.pass + w.passDies) 16777215
      let judged := floor ≠ 0 ∧ tested ≠ 0
      let low := 1000 * pass / tested < floor
      let closed := (((s.withWafer i fun w => { w with
          closeCause := some cause, state := .closed, boundPort := none, staged := none }).withPort p fun q => { q with
          outbound := q.outbound.filter fun f => !f.assigns h }).notify (.waferClosed (some p) h cause))
      let rolled := { closed with lots := tabSet closed.lots l (some { e with
          closed := min (e.closed + 1) 16777215
          tested := tested
          pass := pass
          bins := Vector.ofFn fun b : Bin => min (tabGet e.bins b + tabGet w.bins b) 16777215
          lowReported := if judged then decide low else e.lowReported }) }
      ((if judged ∧ low ∧ e.lowReported = false then rolled.notify (.lotLow (some p) h l) else rolled).judgeHeld p h
        none).settleLamps) ∧
  (∀ (s : State) (i : SlotId) (w : Wafer) (p : PortId) (l : LotId) (e : Lot),
    s.waferAt i = some w → w.boundPort = some p → w.lotEntry = some l → tabGet s.lots l = some e →
    s.enterAbandoned i =
      let h := s.handleOf i
      let t := (s.withWafer i fun w => { w with state := .abandoned, boundPort := none, staged := none }).withPort p
        fun q => { q with outbound := q.outbound.filter fun f => !f.assigns h }
      (({ t with lots := tabSet t.lots l (some { e with abandoned := min (e.abandoned + 1) 16777215 }) }).judgeHeld p h
        none).settleLamps) ∧
  (∀ f : HeadOut, (f.isHoldFrame = true ↔ (∃ h src, f = .hold h src) ∨ ∃ h, f = .proceed h) ∧
    ∀ h, f.assigns h = true ↔ ∃ lot n rows columns policy, f = .assign h lot n rows columns policy) ∧
  (∀ (s : State) (p : PortId) (f : HeadOut),
    s.queueOut p f = s.withPort p fun q => { q with outbound := joinOutbound q.outbound f }) ∧
  ∀ (q : List HeadOut) (f : HeadOut),
    joinOutbound q f =
      match f with
      | .hold _ _ => q.filter (fun g => !g.isHoldFrame) ++ [f]
      | .proceed _ => q.filter (fun g => !g.isHoldFrame) ++ [f]
      | .cancel h => if ∃ g ∈ q, g.assigns h = true then q.filter fun g => !g.assigns h else q ++ [f]
      | _ => q ++ [f]

/-- An ANNOUNCE that passes: on an UP session first a loss with cause RESTART; then the session UP with its
serial, maximum and timer; the resumption of a SUSPENDED wafer of this port and serial; HEAD_UP; WELCOME;
and, where the port is HELD, a HOLD frame naming the lowest slot that holds it (R30, R124, R152, R153). The lamps
are derived again at the end of the loss, at a change of HELD and at the end of the ANNOUNCE: log 10. -/
def Obligations.AnnouncesOpenASession : Prop :=
  ∀ (s : State) (p : PortId) (a b c d n : Byte) (resume : Option Byte) (rest : List Frame),
    s.HeadFinds p 0x11 ([a, b, c, d, n] ++ resume.toList) rest → 1 ≤ n.toNat → n.toNat ≤ 16 →
    exec (.announce p) s = .next (
      let serial : Word32 := BitVec.ofNat 32 (((a.toNat * 256 + b.toNat) * 256 + c.toNat) * 256 + d.toNat)
      let taken := s.withPort p fun q => q.takeFrame 0x11 rest
      let after := if (s.port p).session = .up then taken.lose p .restart else taken
      let up := after.withPort p fun q => { q with
        session := .up, serial := serial, maxSites := n.toNat, silence := q.settings.loaded }
      let resumes := fun (h : Byte) (i : SlotId) =>
        up.resolve h = some i ∧ (up.waferAt i).map (fun w => (w.state, w.boundPort, w.serial)) =
          some (WaferState.suspended, some p, serial)
      let greet := fun (t : State) (resumed : Option Byte) =>
        let t := (t.notify (.headUp p resumed)).queueOut p (.welcome p (up.port p).settings.periodMs resumed)
        if (t.port p).held = true then
          match slotIds.find? fun i => (t.waferAt i).any fun w => w.boundTo p && w.holds with
          | some i => t.queueOut p (.hold (t.handleOf i) (t.firstHoldOf (t.handleOf i)))
          | none => t
        else t
      match resume with
      | none => (greet up none).settleLamps
      | some h =>
        match slotIds.find? fun i => decide (resumes h i) with
        | some i => (greet ((up.withWafer i fun w => { w with state := .active }).judgeHeld p h none) (some h)).settleLamps
        | none => (greet up none).settleLamps)

/-- The loss of a head takes its steps in this order: every entry of the port's list is voided and counted,
front to back; its DRAINING wafers close with cause HEAD_LOST, each with its notice, lot roll-up and HELD
judgement; its ACTIVE wafers become SUSPENDED, each with its notice; the session is LOST with its cause or
DISABLED, the timer stops and the queues are empty; HEAD_LOST is queued; and the lamps follow. So the port keeps
all but its session, timer, queues, list and, where a wafer closed, HELD, which is then what the wafers still
bound decide; no other port changes, no wafer but by its voided entries, its close or its suspension, and nothing
outside the slots, lots, ports, notices and lamps (R28, R60, R158). The expiry of the silence timer of an UP port
and HEAD_DROP cause a loss; a stopped timer and one with time left do not expire, so that a frame of a masked kind,
or an ANNOUNCE, taken first prevents the expiry, a frame of a kind outside the mask does not, and an expiry taken
first leaves no frame in the intake queue (R156, R157, R164). That the command changes nothing at a timer with time
left that no frame has just reloaded is log 3; that the lamps are derived once for the steps after the closes, at the
end, is log 10; that a port disabled has its receiver in HUNT is R158's. -/
def Obligations.LossesTakeTheirSteps : Prop :=
  (∀ (s : State) (p : PortId) (cause : LossCause),
    let drains := fun (t : State) (i : SlotId) =>
      (t.waferAt i).map (fun w : Wafer => (w.state, w.boundPort)) = some (WaferState.draining, some p)
    let probes := fun (t : State) (i : SlotId) =>
      (t.waferAt i).map (fun w : Wafer => (w.state, w.boundPort)) = some (WaferState.active, some p)
    let voidOne := fun (t : State) (e : Entry) =>
      match t.resolve e.handle with
      | none => t
      | some i => t.withWafer i fun w => { w with touchdownsVoided := min (w.touchdownsVoided + 1) 16777215 }
    let voided := ((s.port p).touchdowns.foldl voidOne s).withPort p fun q => { q with touchdowns := [] }
    let closed := slotIds.foldl (fun t i => if drains t i then t.enterClosed i .headLost else t) voided
    let suspended := slotIds.foldl (fun t i =>
      if probes t i then
        (t.withWafer i fun w => { w with state := .suspended }).notify (.waferSuspended p (t.handleOf i))
      else t) closed
    let ended := suspended.withPort p fun q => { q with
      session := if cause = .disabled then .disabled else .lost cause
      silence := none, intake := [], outbound := []
      rdyOut := decide (cause ≠ .disabled)
      sending := if cause = .disabled then none else q.sending
      rx := if cause = .disabled then .hunt else q.rx }
    let t := s.lose p cause
    t = (ended.notify (.headLost p cause)).settleLamps ∧
    t = { s with slots := t.slots, lots := t.lots, ports := t.ports, notices := t.notices, overflow := t.overflow,
                 lamps := t.lamps } ∧
    t.port p = { s.port p with
      touchdowns := [], silence := none, intake := [], outbound := []
      held :=
        if ∃ i, drains s i then
          decide (∃ i, (s.waferAt i).any fun w =>
            (w.state == .active || w.state == .suspended) && w.boundPort == some p && w.holds)
        else (s.port p).held
      session := if cause = .disabled then .disabled else .lost cause
      rdyOut := decide (cause ≠ .disabled)
      sending := if cause = .disabled then none else (s.port p).sending
      rx := if cause = .disabled then .hunt else (s.port p).rx } ∧
    (∀ q, q ≠ p → t.port q = s.port q) ∧
    (∀ i, (tabGet t.slots i).generation = (tabGet s.slots i).generation ∧
      t.waferAt i = (s.waferAt i).map fun w =>
        let v := { w with touchdownsVoided := voidedAfter w.touchdownsVoided (s.naming (s.port p).touchdowns i) }
        if w.state = .draining ∧ w.boundPort = some p then
          { v with state := .closed, closeCause := some .headLost, boundPort := none, staged := none }
        else if w.state = .active ∧ w.boundPort = some p then { v with state := .suspended }
        else v) ∧
    ((∀ i, ¬drains s i) → t.lots = s.lots)) ∧
  (∀ (s : State) (p : PortId), (s.port p).session = .up → (s.port p).silence = some 0 →
    exec (.silenceExpiry p) s = .next (s.lose p .silence)) ∧
  (∀ (s : State) (p : PortId), (s.port p).session ≠ .up ∨ (s.port p).silence ≠ some 0 →
    exec (.silenceExpiry p) s = .next s) ∧
  (∀ (s : State) (p : PortId) (c : Instr) (k : Byte) (bs : List Byte) (rest : List Frame) (t : State),
    s.HeadFinds p k bs rest → (s.port p).session = .up → exec c s = .next t →
    (c = .announce p ∧ k = 0x11 ∨
      (c, k) ∈ frameCommands p ∧ (s.port p).settings.mask.getLsbD (k.toNat - 0x12) = true →
      exec (.silenceExpiry p) t = .next t) ∧
    ((c, k) ∈ frameCommands p → (s.port p).settings.mask.getLsbD (k.toNat - 0x12) = false →
      (s.port p).silence = some 0 → exec (.silenceExpiry p) t = .next (t.lose p .silence))) ∧
  ∀ (s : State) (p : PortId) (rest : List Frame), s.HostFinds 0x44 [BitVec.ofNat 8 p.val] rest →
    ((s.port p).session = .up →
      exec .headDrop s = .next (((s.popHost rest).lose p .dropped).compose 0xC4 [0, BitVec.ofNat 8 p.val])) ∧
    ((s.port p).session ≠ .up → exec .headDrop s = .next (s.answered rest 0x44 [11]))

/-- LAMP_PHASE_EXPIRY moves a blinking lamp whose half has run out to the other half of its period and leaves
another as it is; a lamp whose shown pattern changes begins it lit with a full half, and deriving the lamps changes nothing else; a
lamp shows the pattern of the first of the five conditions, by rank, that is active and assigned to it; and so
under the default table the lamps show the conditions of Table 6-4 (R126, R127, R128). That
LAMP_PHASE_EXPIRY changes nothing while the half has time left is log 3. -/
def Obligations.LampsShowTheirConditions : Prop :=
  (∀ s : State, s.settleLamps = { s with lamps := s.settleLamps.lamps }) ∧
  (∀ pat : Pattern, pat.halfMs = match pat with
    | .steady => 0 | .blinkQuarter => 2000 | .blinkHalf => 1000 | .blinkOne => 500 | .blinkTwo => 250 | .blinkFour => 125) ∧
  (∀ (s : State) (l : Lamp), s.lampPattern l =
    let held := decide (∃ p, (s.port p).held = true)
    let warn := decide (∃ i, ∃ src : Source, (s.waferAt i).any (fun w =>
      let a := tabGet w.alarms src
      w.state.isBound && w.boundPort.isSome && (a.state == .raised || a.state == .clearing) &&
        (a.level == some .warn || a.level == some .hold && a.acked)) = true)
    let lost := decide (∃ p, ∃ cause ∈ [LossCause.silence, .brk, .restart, .dropped, .disabled], (s.port p).session = .lost cause)
    let probing := decide (∃ i, (s.waferAt i).any (fun w => w.state == .active) = true)
    let idle := decide (¬∃ i, (s.waferAt i).any (fun w => w.state.isBound && w.boundPort.isSome) = true)
    (([(held, s.lampTable.hold), (warn, s.lampTable.warn), (lost, s.lampTable.lost), (probing, s.lampTable.probing),
      (idle, s.lampTable.idle)].filter fun c => c.1 && c.2.lamp == lampChoice l).head?).map fun c => c.2.pattern) ∧
  (∀ (s : State) (l : Lamp), exec (.lampPhaseExpiry l) s = .next { s with
    lamps := s.lamps.modify l fun st =>
      if st.timer ≠ 0 then st
      else match st.shown with
      | some .blinkQuarter => { st with lit := !st.lit, timer := 2000 }
      | some .blinkHalf => { st with lit := !st.lit, timer := 1000 }
      | some .blinkOne => { st with lit := !st.lit, timer := 500 }
      | some .blinkTwo => { st with lit := !st.lit, timer := 250 }
      | some .blinkFour => { st with lit := !st.lit, timer := 125 }
      | some .steady => st
      | none => st }) ∧
  (∀ (s : State) (l : Lamp),
    s.settleLamps.lamps.get l =
      if (s.lamps.get l).shown = s.lampPattern l then s.lamps.get l
      else ⟨s.lampPattern l, (s.lampPattern l).isSome, ((s.lampPattern l).map Pattern.halfMs).getD 0⟩) ∧
  ∀ s : State, s.lampTable = ⟨⟨.red, .steady⟩, ⟨.amber, .steady⟩, ⟨.amber, .blinkOne⟩, ⟨.green, .steady⟩, ⟨.green, .blinkQuarter⟩⟩ →
    let held := ∃ p, (s.port p).held = true
    let warn := ∃ i w src, s.waferAt i = some w ∧ w.state.isBound = true ∧ w.boundPort.isSome = true ∧
      ((tabGet w.alarms src).state = .raised ∨ (tabGet w.alarms src).state = .clearing) ∧
      ((tabGet w.alarms src).level = some .warn ∨ (tabGet w.alarms src).level = some .hold ∧ (tabGet w.alarms src).acked = true)
    let lost := ∃ p cause, (s.port p).session = .lost cause
    let probing := ∃ i w, s.waferAt i = some w ∧ w.state = .active
    let bound := ∃ i w, s.waferAt i = some w ∧ w.state.isBound = true ∧ w.boundPort.isSome = true
    (held → s.lampPattern .red = some .steady) ∧ (¬held → s.lampPattern .red = none) ∧
    (warn → s.lampPattern .amber = some .steady) ∧ (¬warn → lost → s.lampPattern .amber = some .blinkOne) ∧
    (¬warn → ¬lost → s.lampPattern .amber = none) ∧
    (probing → s.lampPattern .green = some .steady) ∧ (¬probing → ¬bound → s.lampPattern .green = some .blinkQuarter) ∧
    (¬probing → bound → s.lampPattern .green = none)

/-! ### Pages and resets -/

/-- PAGE_ERASE and PAGE_WRITE are judged in the order of R179 and R180 and start their operation, 20 ms and
8 ms, on a page 1 to 7 with none in flight, a write only with a profile in range on a BLANK page; a write
programs the 256 bytes composed when it is taken, for page 1 of the live settings with the profile carried, for
pages 2 to 7 of the profile carried; an id above 7, then page 0, is refused before the profile is judged, and
the profile before an operation in flight or the page's state (R179, R180). That the page's former contents are
lost from that moment with no determined byte in their place, and how the 256 bytes are laid out, is log 19. -/
def Obligations.PageOperationsStart : Prop :=
  RefusesLength .pageErase 0x5E ∧ RefusesLength .pageWrite 0x5D ∧
  (∀ (s : State) (id : Byte) (rest : List Frame), s.HostFinds 0x5E [id] rest →
    exec .pageErase s = .next (
      if 7 < id.toNat then s.answered rest 0x5E [2]
      else
        match StoredPage.ofId id.toNat with
        | none => s.answered rest 0x5E [14]
        | some pg =>
          if s.pageOp.isSome = true then s.answered rest 0x5E [1]
          else { s.setPage pg PageBytes.lost with pageOp := some ⟨.erase pg, 20⟩ }.answered rest 0x5E [0, id])) ∧
  (∀ (s : State) (id : Byte) (prof : Profile) (rest : List Frame), prof.accepted = true →
    s.HostFinds 0x5D (id :: prof.image) rest →
    exec .pageWrite s = .next (
      if 7 < id.toNat then s.answered rest 0x5D [2]
      else
        match StoredPage.ofId id.toNat with
        | none => s.answered rest 0x5D [14]
        | some pg =>
          if s.pageOp.isSome = true then s.answered rest 0x5D [1]
          else
            match pg with
            | .defaults =>
              if s.defaultsPage = .blank then
                let live : Defaults :=
                  ⟨s.bins, s.lampTable, Vector.ofFn fun p => (s.port p).settings, s.alertEnable, prof⟩
                { s with
                  page1 := PageBytes.lost
                  pageOp := some ⟨.program .defaults (pageImage live.chars), 8⟩ }.answered rest 0x5D [0, id]
              else s.answered rest 0x5D [5]
            | .profile i =>
              if s.profilePage i = .blank then
                { s with
                  profilePages := tabSet s.profilePages i PageBytes.lost
                  pageOp := some ⟨.program (.profile i) (pageImage prof.image), 8⟩ }.answered rest 0x5D [0, id]
              else s.answered rest 0x5D [5])) ∧
  ∀ (s : State) (id : Byte) (bs : List Byte) (rest : List Frame), s.HostFinds 0x5D (id :: bs) rest →
    imageLengthOk (id :: bs) = true →
    (7 < id.toNat → exec .pageWrite s = .next (s.answered rest 0x5D [2])) ∧
    (id = 0 → exec .pageWrite s = .next (s.answered rest 0x5D [14])) ∧
    (1 ≤ id.toNat → id.toNat ≤ 7 → (readProfile (id :: bs) 1).accepted = false →
      exec .pageWrite s = .next (s.answered rest 0x5D [12]))

/-- A page's state is judged from the 256 bytes it holds: BLANK exactly where every byte is erased, VALID exactly
where every byte has a value, the last is the check over the others and these hold contents of the page's kind,
and DAMAGED in every other case; the bytes composed for a profile or for power-up defaults in range are VALID with
them, and page 0 is VALID at all times (R177, R180). At its completion an erase leaves its page BLANK and a program
leaves its page with the bytes programmed, and the verify judges it: PAGE_DONE is queued with ERASED or WRITTEN; and
where the storage fails the page is DAMAGED and PAGE_DONE carries FAILED; no operation is in flight then (R181). The
layout of the 256 bytes, with a check and unused bytes that are free values, and the bytes a failure leaves are
log 19; which outcome follows is the command's operand (log 4); that the
command does nothing where no operation is in flight, or where one in flight has time left, is log 3. -/
def Obligations.PageOperationsComplete : Prop :=
  (∀ (α : Type) (contents : List Byte → Option α) (v : PageBytes),
    (v.judge contents = .blank ↔ ∀ k, tabGet v k = .erased) ∧
    ∀ c, v.judge contents = .valid c ↔ ∃ bytes : Vector Byte 256, (∀ k, tabGet v k = .value (tabGet bytes k)) ∧
      tabGet bytes 255 = Config.pageCheck ((tabList bytes).take 255) ∧ contents ((tabList bytes).take 255) = some c) ∧
  (∀ cs : List Byte, cs.length ≤ 255 →
    let body := cs ++ (List.range (255 - cs.length)).map fun k => Config.pageFill (cs.length + k)
    tabList (pageImage cs) = body ++ [Config.pageCheck body]) ∧
  (∀ prof : Profile, prof.accepted = true →
    (PageBytes.written (pageImage prof.image)).judge storedProfile = .valid prof) ∧
  (∀ d : Defaults, d.Law → (PageBytes.written (pageImage d.chars)).judge storedDefaults = .valid d) ∧
  (∀ s : State, s.identityPage = .valid s.identity ∧ s.identity.page = PageBytes.written (pageImage s.identity.chars) ∧
    s.defaultsPage = s.page1.judge storedDefaults ∧ ∀ i, s.profilePage i = (tabGet s.profilePages i).judge storedProfile) ∧
  (∀ (bytes : Vector Byte 256) (k : Fin 256), tabGet (PageBytes.written bytes) k = .value (tabGet bytes k) ∧
    tabGet PageBytes.erased k = .erased ∧ tabGet PageBytes.lost k = .lost) ∧
  (∀ (s : State) (v : PageBytes) (i : Fin 6),
    s.setPage .defaults v = { s with page1 := v } ∧
    s.setPage (.profile i) v = { s with profilePages := tabSet s.profilePages i v }) ∧
  (StoredPage.ofId 1 = some .defaults ∧ StoredPage.defaults.id = 1 ∧ (∀ n, n = 0 ∨ 7 < n → StoredPage.ofId n = none) ∧
    ∀ i : Fin 6, StoredPage.ofId (i.val + 2) = some (.profile i) ∧ (StoredPage.profile i).id = BitVec.ofNat 8 (i.val + 2)) ∧
  (∀ (s : State) (pg : StoredPage), s.pageOp = some ⟨.erase pg, 0⟩ →
    exec (.pageDone true) s =
      .next ({ s.setPage pg PageBytes.erased with pageOp := none }.notify (.pageDone pg.id .erased))) ∧
  (∀ (s : State) (bytes : Vector Byte 256),
    let result := fun (valid : Bool) => if valid then PageResult.written else PageResult.failed
    (s.pageOp = some ⟨.program .defaults bytes, 0⟩ →
      let t := { s with page1 := PageBytes.written bytes, pageOp := none }
      exec (.pageDone true) s = .next (t.notify (.pageDone 1 (result t.defaultsPage.isValid)))) ∧
    ∀ i : Fin 6, s.pageOp = some ⟨.program (.profile i) bytes, 0⟩ →
      let t := { s with profilePages := tabSet s.profilePages i (PageBytes.written bytes), pageOp := none }
      exec (.pageDone true) s =
        .next (t.notify (.pageDone (BitVec.ofNat 8 (i.val + 2)) (result (t.profilePage i).isValid)))) ∧
  (∀ (s : State) (pg : StoredPage) (bytes : Vector Byte 256),
    s.pageOp = some ⟨.erase pg, 0⟩ ∨ s.pageOp = some ⟨.program pg bytes, 0⟩ →
    exec (.pageDone false) s =
      .next ({ s.setPage pg PageBytes.lost with pageOp := none }.notify (.pageDone pg.id .failed))) ∧
  (∀ (α : Type) (pg : Page α), pg.isValid = true ↔ ∃ c, pg = .valid c) ∧
  ∀ (s : State) (b : Bool), (∀ op ∈ s.pageOp, op.remaining ≠ 0) → exec (.pageDone b) s = .next s

/-- Power-up and pin reset clear everything but the page store, whose operation in flight ends with its page
DAMAGED, load the settings from page 1 if it is VALID and the factory settings otherwise, and set the host
divisor from the straps (R2, R11, R18, R43, R89, R130, R131, R165, R166, R173, R177, R181, R182). What a page
cut short holds is log 19. That the queue of waiting commands stays is log 17; that every line is then high is log 11, and that the kept level of every
RDY-in is then asserted is log 6: both are the model's values, not the spec's. -/
def Obligations.ResetsLoadPage1 : Prop :=
  (∀ (s : State) (st : Straps), exec (.powerUp st) s = exec (.pinReset st) s) ∧
  ∀ (s : State) (st : Straps), ∃ t, exec (.powerUp st) s = .next t ∧
    let cut := match s.pageOp with
      | none => s
      | some ⟨.erase pg, _⟩ => s.setPage pg PageBytes.lost
      | some ⟨.program pg _, _⟩ => s.setPage pg PageBytes.lost
    let d : Defaults :=
      match cut.defaultsPage with
      | .valid d => d
      | _ => ⟨factoryBins, ⟨⟨.red, .steady⟩, ⟨.amber, .steady⟩, ⟨.amber, .blinkOne⟩, ⟨.green, .steady⟩, ⟨.green, .blinkQuarter⟩⟩,
          Vector.replicate 4 ⟨0, .tenMs, 0, 31⟩, true, ⟨256, 2, 2, 900, 920, 800, 850, 8, 16, 100, 200, 0, []⟩⟩
    t.map = [] ∧ t.bins = d.bins ∧ (∀ i, tabGet t.slots i = ⟨0, none⟩) ∧ (∀ l, tabGet t.lots l = none) ∧
    (∀ p, t.port p = { Port.reset with
      settings := tabGet d.lines p
      session := if (tabGet d.lines p).divisor = 0 then .disabled else .down
      rdyOut := decide ((tabGet d.lines p).divisor ≠ 0) }) ∧
    t.lampTable = d.lampTable ∧
    (∀ l, t.lamps.get l =
      if d.lampTable.idle.lamp = lampChoice l then ⟨some d.lampTable.idle.pattern, true, d.lampTable.idle.pattern.halfMs⟩
      else ⟨none, false, 0⟩) ∧
    t.host = { HostLine.reset with
      divisor := match st.hrate1, st.hrate0 with | false, false => 2 | false, true => 4 | true, false => 16 | true, true => 64 } ∧
    t.notices = [] ∧ t.overflow = false ∧ t.alertEnable = d.alertEnable ∧ t.defaultProfile = d.profile ∧
    t.identity = s.identity ∧ t.page1 = cut.page1 ∧ t.profilePages = cut.profilePages ∧ t.pageOp = none ∧
    t.pending = s.pending

/-- PART_RESET frees every slot with its generation kept, empties the lots, the lists, the queues and the
notices, leaves each port DOWN or DISABLED and not HELD, keeps the map store, the settings, the host line
and the page store, and is answered; the lamps show what the table gives IDLE, one whose pattern changes beginning
it lit with a full half, and one whose pattern stays running on (R11, R18, R43, R128, R130, R131, R165, R166, R173,
R174, R177). That it leaves each line's
phase is log 11, and the kept level of each RDY-in log 6. -/
def Obligations.PartResetKeepsTheSettings : Prop :=
  ∀ (s : State) (rest : List Frame), s.HostFinds 0x5F [] rest →
    ∃ t : State, exec .partReset s = .next (t.answered rest 0x5F [0]) ∧
      (∀ i, tabGet t.slots i = ⟨(tabGet s.slots i).generation, none⟩) ∧ (∀ l, tabGet t.lots l = none) ∧
      (∀ p, t.port p = { Port.reset with
        settings := (s.port p).settings
        session := if (s.port p).session = .disabled then .disabled else .down
        line := (s.port p).line
        rdyIn := (s.port p).rdyIn
        sending := (s.port p).sending
        rdyOut := if (s.port p).session = .disabled then (s.port p).rdyOut else true }) ∧
      t.notices = [] ∧ t.overflow = false ∧
      (∀ l,
        let shown := if s.lampTable.idle.lamp = lampChoice l then some s.lampTable.idle.pattern else none
        t.lamps.get l =
          if (s.lamps.get l).shown = shown then s.lamps.get l
          else ⟨shown, shown.isSome, (shown.map Pattern.halfMs).getD 0⟩) ∧
      t = { s with slots := t.slots, lots := t.lots, ports := t.ports, notices := t.notices, overflow := t.overflow,
                   lamps := t.lamps }

/-! ### The host line -/

/-- The waiting reply begins only while RDY-in is asserted, is finished whatever RDY-in does, and once its
last character is sent none is waiting (R167). The moments are the operand of HOST_REPLY_SEND (log 5); so is RDY-in's level, which
State keeps (log 6). That a moment at which no reply can begin or end begins and ends nothing is log 28. -/
def Obligations.RepliesAreSentWhileReady : Prop :=
  ∀ (s : State) (f : Frame),
    (s.host.reply = some ⟨f, false⟩ →
      exec (.hostReplySend (.started true)) s = .next { s with host := { s.host with rdyIn := true, reply := some ⟨f, true⟩ } } ∧
      exec (.hostReplySend (.started false)) s = .next { s with host := { s.host with rdyIn := false } } ∧
      exec (.hostReplySend .finished) s = .next s ∧
      exec (.hostReplySend (.whole true)) s = .next { s with host := { s.host with rdyIn := true, reply := none } } ∧
      exec (.hostReplySend (.whole false)) s = .next { s with host := { s.host with rdyIn := false } }) ∧
    (s.host.reply = some ⟨f, true⟩ → ∀ b,
      exec (.hostReplySend .finished) s = .next { s with host := { s.host with reply := none } } ∧
      exec (.hostReplySend (.started b)) s = .next { s with host := { s.host with rdyIn := b } } ∧
      exec (.hostReplySend (.whole b)) s = .next { s with host := { s.host with rdyIn := b, reply := none } }) ∧
    (s.host.reply = none → ∀ b,
      exec (.hostReplySend .finished) s = .next s ∧
      exec (.hostReplySend (.started b)) s = .next { s with host := { s.host with rdyIn := b } } ∧
      exec (.hostReplySend (.whole b)) s = .next { s with host := { s.host with rdyIn := b } })

/-- A host command whose payload has none of the lengths of its row is answered BAD_LENGTH, and a frame of
no command code UNKNOWN_KIND, the status alone, with every piece of state outside the host line's queue and
reply as it was. Taking a command removes the front frame, with RDY-out asserted at 2 frames or fewer, and
composes one reply (R166, R167, R168). -/
def Obligations.RefusalsChangeNothing : Prop :=
  (∀ (s : State) (rest : List Frame) (k : Byte) (bs : List Byte),
    s.popHost rest = { s with host := { s.host with
      intake := rest, rdyOut := if rest.length ≤ 2 then true else s.host.rdyOut } } ∧
    s.compose k bs = { s with host := { s.host with reply := some ⟨⟨k, bs⟩, false⟩ } }) ∧
  (∀ (c : Instr) (k : Byte), (c, k) ∈ hostCommands → RefusesLength c k) ∧
  ∀ (s : State) (k : Byte) (bs : List Byte) (rest : List Frame), s.HostFinds k bs rest →
    (∀ c, (c, k) ∉ hostCommands) →
    exec .unknownKind s = .next { s with host := { s.host with
      intake := rest
      rdyOut := if rest.length ≤ 2 then true else s.host.rdyOut
      reply := some ⟨⟨if k.toNat < 0x80 then k + 0x80 else k, [3]⟩, false⟩ } }

/-- The read commands of a wafer answer from its record, or UNKNOWN_WAFER, and change nothing but the host
line's queue and reply: WAFER_READ with the fields of R38 in the order and widths of Table 9-9, most significant
character first. A handle names slot i exactly where its low four bits are i, i is 0 to 11, the slot is occupied,
and its high four bits are the slot's generation (R16, R19, R38, R39, R108, R120, R176). That the active source
may read 0xFE is log 26. -/
def Obligations.WaferReadsAnswerTheRecord : Prop :=
  RefusesLength .waferRead 0x4D ∧ RefusesLength .waferBins 0x53 ∧ RefusesLength .alarmsRead 0x4F ∧ RefusesLength .limitsRead 0x51 ∧
  (∀ (s : State) (h : Byte) (k : Byte) (c : Instr) (rest : List Frame),
    (c, k) ∈ [(Instr.waferRead, (0x4D : Byte)), (.waferBins, 0x53), (.alarmsRead, 0x4F), (.limitsRead, 0x51)] →
    s.HostFinds k [h] rest → s.resolve h = none → exec c s = .next (s.answered rest k [4])) ∧
  (∀ (s : State) (h : Byte) (i : SlotId), s.resolve h = some i ↔
    h.toNat % 16 = i.val ∧ (s.waferAt i).isSome = true ∧ (tabGet s.slots i).generation.toNat = h.toNat / 16) ∧
  (∀ (s : State) (h : Byte), s.resolve h = none ↔ ∀ i : SlotId, s.resolve h ≠ some i) ∧
  (∀ (s : State) (i : SlotId), s.handleOf i = BitVec.ofNat 8 ((tabGet s.slots i).generation.toNat * 16 + i.val)) ∧
  (∀ n, write2 n = [BitVec.ofNat 8 (n / 256), BitVec.ofNat 8 n] ∧
    write3 n = [BitVec.ofNat 8 (n / 65536), BitVec.ofNat 8 (n / 256), BitVec.ofNat 8 n] ∧
    write4 n = [BitVec.ofNat 8 (n / 16777216), BitVec.ofNat 8 (n / 65536), BitVec.ofNat 8 (n / 256), BitVec.ofNat 8 n]) ∧
  ∀ (s : State) (h : Byte) (i : SlotId) (w : Wafer) (rest : List Frame), s.resolve h = some i → s.waferAt i = some w →
    (s.HostFinds 0x4D [h] rest → exec .waferRead s = .next (s.answered rest 0x4D (
      ([0, h, (match w.state with | .active => 1 | .draining => 2 | .suspended => 3 | .closed => 4 | .abandoned => 5),
        match w.closeCause with | none => 0 | some .unloaded => 1 | some .forced => 2 | some .headLost => 3] : List Byte) ++
      w.lotText ++ ([(match w.lotEntry with | none => 0xFF | some l => BitVec.ofNat 8 l.val), w.number] : List Byte) ++
      write2 w.rows ++ write2 w.columns ++ write3 w.base ++ write3 w.size ++
      ([(match w.policy with | .first => 0 | .last => 1 | .best => 2),
        match w.boundPort with | none => 0xFF | some p => BitVec.ofNat 8 p.val] : List Byte) ++
      write4 w.serial.toNat ++ [w.activeSource, match w.staged with | none => 0 | some st => st.source] ++
      write4 w.revision.toNat ++ write3 w.tested ++ write3 w.passDies ++ write3 w.failDies ++
      write3 w.resultsApplied ++ write3 w.retestResults ++ write3 w.excessResults ++
      write3 w.missingSites ++ write3 w.skippedSites ++ write3 w.touchdownsApplied ++ write3 w.touchdownsVoided ++
      write3 w.windowsClosed ++ write3 w.alarmsRaised ++ write3 w.run ++
      write2 w.window.count ++ write2 w.window.pass ++ write2 w.window.fail ++
      siteIds.flatMap fun n => write2 (tabGet w.window.siteResults n) ++ write2 (tabGet w.window.siteFails n)))) ∧
    (s.HostFinds 0x53 [h] rest →
      exec .waferBins s = .next (s.answered rest 0x53 (0 :: h :: (tabList w.bins).tail.flatMap write3))) ∧
    (s.HostFinds 0x4F [h] rest →
      exec .alarmsRead s = .next (s.answered rest 0x4F (0 :: h :: sources.flatMap fun src =>
        let a := tabGet w.alarms src
        [a.state.code, match a.level with | none => 0 | some .warn => 1 | some .hold => 2,
          if a.acked = true then 1 else 0, BitVec.ofNat 8 a.count]))) ∧
    (s.HostFinds 0x51 [h] rest →
      exec .limitsRead s = .next (s.answered rest 0x51 (0 :: h :: w.activeSource :: w.active.image ++
        match w.staged with | none => [0] | some st => st.source :: st.profile.image)))

/-- MAP_READ answers the revision and the cells asked for in ascending index, and refuses a count outside 1
to 240, an unknown handle and a span past the grid, in this order (R13). -/
def Obligations.MapReadsAnswerTheCells : Prop :=
  RefusesLength .mapRead 0x4E ∧
  ∀ (s : State) (h f2 f1 f0 n : Byte) (rest : List Frame), s.cellsExist = true →
    s.HostFinds 0x4E [h, f2, f1, f0, n] rest →
    exec .mapRead s = .next (
      let first := (f2.toNat * 256 + f1.toNat) * 256 + f0.toNat
      if n.toNat = 0 ∨ 240 < n.toNat then s.answered rest 0x4E [2]
      else
        match (s.resolve h).bind s.waferAt with
        | none => s.answered rest 0x4E [4]
        | some w =>
          if w.rows * w.columns < first + n.toNat then s.answered rest 0x4E [2]
          else s.answered rest 0x4E ([0, h] ++ write4 w.revision.toNat ++ [f2, f1, f0, n] ++
            (List.range n.toNat).map fun j => mapRead (w.base + (first + j)) s.map))

/-- BINS_READ returns the 64 class codes, LOT_READ the fields of its entry, PAGE_READ a page by its state,
and QUERY_PART the identity, and they change nothing but the host line's queue and reply. Page 0 holds the
identity fields of QUERY_PART; page 1 the bin class table, the lamp table, each port's divisor, units, count and
mask, the alert enable and its profile image; and a profile image has the fields of Table 5-1 in order (R4, R129,
R137, R161, R178). The serial and the revision of the part are free (log 9). -/
def Obligations.TableReadsAnswerTheTables : Prop :=
  (∀ (s : State) (l : LotId), s.boundMembers l =
    (slotIds.filter fun i => (s.waferAt i).any fun w => w.state.isBound && w.lotEntry == some l).length) ∧
  RefusesLength .binsRead 0x55 ∧ RefusesLength .queryPart 0x40 ∧ RefusesLength .lotRead 0x58 ∧ RefusesLength .pageRead 0x5C ∧
  (∀ (s : State) (rest : List Frame), s.HostFinds 0x55 [] rest →
    exec .binsRead s = .next (s.answered rest 0x55 (0 :: (List.finRange 64).map fun b =>
      match s.binClass b with | .unused => 0 | .pass => 1 | .fail => 2))) ∧
  (∀ (s : State) (rest : List Frame), s.HostFinds 0x40 [] rest →
    exec .queryPart s = .next (s.answered rest 0x40 ([0, 0x0B, 0x71, 0x04, 0x16, s.identity.revision] ++
      write4 s.identity.serial.toNat ++ [4, 16, 12, 4, 0x10, 0, 0, 32, 8]))) ∧
  (∀ (s : State) (n : Byte) (rest : List Frame), s.HostFinds 0x58 [n] rest →
    exec .lotRead s = .next (
      match lotIds.find? (fun l => l.val = n.toNat) with
      | none => s.answered rest 0x58 [2]
      | some l =>
        match tabGet s.lots l with
        | none => s.answered rest 0x58 [8]
        | some e => s.answered rest 0x58 (0 :: n :: e.lotText ++ write3 e.opened ++ write3 e.closed ++ write3 e.abandoned ++
            [BitVec.ofNat 8 (s.boundMembers l)] ++ write3 e.tested ++ write3 e.pass ++ [if e.lowReported = true then 1 else 0] ++
            (tabList e.bins).tail.flatMap write3))) ∧
  (∀ d : Identity, d.chars = [0x0B, 0x71, 0x04, 0x16, d.revision] ++ write4 d.serial.toNat ++
    [4, 16, 12, 4, 0x10, 0, 0, 32, 8]) ∧
  (∀ d : Defaults, d.chars =
    ((List.finRange 64).map fun b => match tabGet d.bins b with | .unused => (0 : Byte) | .pass => 1 | .fail => 2) ++
    ([d.lampTable.hold, d.lampTable.warn, d.lampTable.lost, d.lampTable.probing, d.lampTable.idle].flatMap fun e =>
      [(match e.lamp with | .none => (0 : Byte) | .green => 1 | .amber => 2 | .red => 3),
        match e.pattern with
        | .steady => 0 | .blinkQuarter => 1 | .blinkHalf => 2 | .blinkOne => 3 | .blinkTwo => 4 | .blinkFour => 5]) ++
    (portIds.flatMap fun p =>
      let l := tabGet d.lines p
      write2 l.divisor ++ [(match l.units with | .tenMs => (0 : Byte) | .oneS => 1), l.count, BitVec.ofNat 8 l.mask.toNat]) ++
    [if d.alertEnable = true then 1 else 0] ++ d.profile.image) ∧
  (∀ prof : Profile, prof.image =
    write2 prof.window ++ [BitVec.ofNat 8 prof.raiseDebounce, BitVec.ofNat 8 prof.clearDebounce] ++
    write2 prof.yieldWarnEnter ++ write2 prof.yieldWarnLeave ++ write2 prof.yieldHoldEnter ++ write2 prof.yieldHoldLeave ++
    [BitVec.ofNat 8 prof.runWarn, BitVec.ofNat 8 prof.runHold] ++ write2 prof.siteWarn ++ write2 prof.siteHold ++
    write2 prof.lotFloor ++ [BitVec.ofNat 8 prof.watched.length] ++
    prof.watched.flatMap fun e => BitVec.ofNat 8 e.bin :: (write2 e.warn ++ write2 e.hold)) ∧
  ∀ (s : State) (id : Byte) (rest : List Frame), s.HostFinds 0x5C [id] rest →
    exec .pageRead s = .next (
      if 7 < id.toNat then s.answered rest 0x5C [2]
      else
        match StoredPage.ofId id.toNat with
        | none => s.answered rest 0x5C ([0, 0, 1] ++ s.identity.chars)
        | some pg =>
          if s.pageOp.map (·.job.page) = some pg then s.answered rest 0x5C [1]
          else
            let chars : Option (List Byte) :=
              match pg with
              | .defaults =>
                match s.defaultsPage with | .valid d => some (1 :: d.chars) | .blank => some [2] | .damaged => none
              | .profile i =>
                match s.profilePage i with | .valid prof => some (1 :: prof.image) | .blank => some [2] | .damaged => none
            match chars with
            | none => s.answered rest 0x5C [13]
            | some cs => s.answered rest 0x5C (0 :: id :: cs))

/-- STATUS answers the collator's figures and clears the host counters; HEAD_STATUS answers the port's
figures and clears its link counters and fault-reported flag; each after its reply is composed (R147, R163,
R166, R169). -/
def Obligations.StatusReadsClearTheirCounters : Prop :=
  (∀ x : Session, x.code = match x with | .disabled => 0 | .down => 1 | .up => 2 | .lost _ => 3) ∧
  (∀ c : LossCause, c.code = match c with | .silence => 1 | .brk => 2 | .restart => 3 | .dropped => 4 | .disabled => 5) ∧
  (∀ x : WaferState, x.code = match x with | .active => 1 | .draining => 2 | .suspended => 3 | .closed => 4 | .abandoned => 5) ∧
  (∀ u : TimerUnits, u.code = match u with | .tenMs => 0 | .oneS => 1) ∧
  RefusesLength .status 0x41 ∧ RefusesLength .headStatus 0x43 ∧
  (∀ (s : State) (rest : List Frame), s.HostFinds 0x41 [] rest →
    exec .status s = .next ({ s with host := { s.host with overruns := 0, discarded := 0 } }.answered rest 0x41
      (0 :: (portIds.flatMap fun p => [(s.port p).session.code, if (s.port p).held = true then 1 else 0]) ++
        [BitVec.ofNat 8 (slotIds.filter fun i => (s.waferAt i).isSome).length] ++
        (slotIds.flatMap fun i => match s.waferAt i with | none => [] | some w => [s.handleOf i, w.state.code]) ++
        write3 s.largestPlaceable ++ [BitVec.ofNat 8 s.notices.length, if s.overflow = true then 1 else 0] ++
        write3 s.host.overruns ++ write3 s.host.discarded ++
        [match s.pageOp with | none => 0xFF | some op => op.job.page.id]))) ∧
  (∀ (s : State) (b : Byte) (rest : List Frame), s.HostFinds 0x43 [b] rest → 3 < b.toNat →
    exec .headStatus s = .next (s.answered rest 0x43 [2])) ∧
  ∀ (s : State) (p : PortId) (rest : List Frame), s.HostFinds 0x43 [BitVec.ofNat 8 p.val] rest →
    exec .headStatus s = .next ((s.withPort p fun q => { q with
        taken := 0, discarded := 0, overruns := 0, faultReported := false }).answered rest 0x43 (
      let q := s.port p
      [0, BitVec.ofNat 8 p.val, q.session.code, match q.session with | .lost c => c.code | _ => 0] ++
      write4 q.serial.toNat ++ [BitVec.ofNat 8 q.maxSites] ++ write3 (q.silence.getD 0) ++
      write2 q.settings.divisor ++ [q.settings.units.code, q.settings.count, BitVec.ofNat 8 q.settings.mask.toNat] ++
      write3 q.taken ++ write3 q.discarded ++ write3 q.overruns ++
      [if q.faultReported = true then 1 else 0, if q.held = true then 1 else 0, BitVec.ofNat 8 q.touchdowns.length] ++
      q.touchdowns.flatMap fun e => [e.tag, match e.state with | .isOpen => 0 | .isSealed => 1]))

/-! ### Host commands that change the collator -/

/-- HEAD_SET stores units, count and mask, then acts by the session and the change of divisor; it is refused
for a value out of range, and HEAD_SET and HEAD_DROP for a port above 3 (R160, R161, R162, R164).
That a new divisor is stored before the steps of a loss is log 25; that disabling resets the receiver and
stops the transmitter is log 18; when the lamps are derived again at the loss of an UP port disabled, and at the
end, is log 10. -/
def Obligations.HeadSetActsBySession : Prop :=
  (∀ (s : State) (b : Byte) (bs : List Byte) (rest : List Frame), 3 < b.toNat →
    (bs.length = 5 → s.HostFinds 0x42 (b :: bs) rest → exec .headSet s = .next (s.answered rest 0x42 [2])) ∧
    (s.HostFinds 0x44 [b] rest → exec .headDrop s = .next (s.answered rest 0x44 [2]))) ∧
  ∀ (s : State) (p : PortId) (d1 d0 u n m : Byte) (rest : List Frame),
    s.HostFinds 0x42 [BitVec.ofNat 8 p.val, d1, d0, u, n, m] rest →
    let d := d1.toNat * 256 + d0.toNat
    (4095 < d ∨ 1 < u.toNat ∨ 31 < m.toNat → exec .headSet s = .next (s.answered rest 0x42 [2])) ∧
    (d ≤ 4095 → u.toNat ≤ 1 → m.toNat ≤ 31 →
      exec .headSet s = .next (
        let new : LineSettings := ⟨d, if u = 0 then .tenMs else .oneS, n, BitVec.ofNat 5 m.toNat⟩
        let t := (s.popHost rest).withPort p fun q => { q with settings := new }
        let same := d = (s.port p).settings.divisor
        let u :=
          match (s.port p).session with
          | .up =>
            if d = 0 then t.lose p .disabled
            else t.withPort p fun q => { q with silence := new.loaded, rx := if same then q.rx else .hunt }
          | .disabled =>
            if d = 0 then t
            else t.withPort p fun q => { q with session := .down, rx := .hunt, intake := [], outbound := [], rdyOut := true }
          | _ =>
            if d = 0 then t.withPort p fun q => { q with
              session := .disabled, rx := .hunt, intake := [], outbound := [], rdyOut := false, sending := none }
            else t.withPort p fun q => { q with rx := if same then q.rx else .hunt }
        u.settleLamps.compose 0xC2 [0]))

/-- WAFER_OPEN is judged in the order of R21: the first failing check gives its status and changes nothing;
one that passes takes the FREE slot of lowest index, raises its generation, clears the block, joins or
creates the lot entry, fills the record with every field R22 lists, queues ASSIGN, and answers the handle (R7, R8,
R9, R19, R20, R21, R22, R23, R132). That ASSIGN is queued before HELD is judged is log 23; when the lamps are
derived again is log 10. -/
def Obligations.WaferOpensAreJudgedInOrder : Prop :=
  (∀ (s : State) (bs : List Byte) (rest : List Frame), s.HostFinds 0x48 bs rest → bs.length = 20 →
    (3 < read1 bs 0 ∨ read1 bs 13 = 0 ∨ read2 bs 14 = 0 ∨ 1024 < read2 bs 14 ∨ read2 bs 16 = 0 ∨ 1024 < read2 bs 16 ∨
      262144 < read2 bs 14 * read2 bs 16 ∨ 2 < read1 bs 18 ∨
      ¬(2 ≤ read1 bs 19 ∧ read1 bs 19 ≤ 7 ∨ read1 bs 19 = 255)) →
    exec .waferOpen s = .next (s.answered rest 0x48 [2])) ∧
  ∀ (s : State) (a : OpenArgs) (rest : List Frame), openArgsOk a → s.HostFinds 0x48 (openPayload a) rest →
    exec .waferOpen s = .next (
      let refuse := fun (code : Byte) => s.answered rest 0x48 [code]
      let busy := ∃ i, (s.waferAt i).any fun w => (w.state == .active || w.state == .suspended) && w.boundPort == some a.port
      let dup := ∃ i, (s.waferAt i).any fun w => w.lotText == a.lotText && w.number == a.number
      let size := blockSizeFor (a.rows * a.columns)
      let profile : Except Byte Profile :=
        match StoredPage.ofId a.page with
        | some (.profile j) =>
          if s.pageOp.map (·.job.page) = some (.profile j) then .error 1
          else match s.profilePage j with | .valid prof => .ok prof | _ => .error 13
        | _ => .ok s.defaultProfile
      if (s.port a.port).session ≠ .up then refuse 11
      else if busy then refuse 10
      else if dup then refuse 9
      else
        match slotIds.find? (fun i => s.waferAt i = none) with
        | none => refuse 6
        | some i =>
          match profile with
          | .error code => refuse code
          | .ok prof =>
            match s.lotFor a.lotText with
            | none => refuse 8
            | some l =>
              match (List.range (1048576 / size)).find? (fun k => spanFree s.blocks (k * size) size) with
              | none => refuse 7
              | some k =>
                let g := (tabGet s.slots i).generation + 1
                let h := BitVec.ofNat 8 (g.toNat * 16 + i.val)
                let w : Wafer := {
                  state := .active, boundPort := some a.port, serial := (s.port a.port).serial
                  lotText := a.lotText, lotEntry := some l, number := a.number
                  rows := a.rows, columns := a.columns, base := k * size, size := size, policy := a.policy
                  active := prof, activeSource := BitVec.ofNat 8 a.page, staged := none, closeCause := none
                  revision := 0, bins := Vector.replicate 64 0, tested := 0, passDies := 0, failDies := 0
                  resultsApplied := 0, retestResults := 0, excessResults := 0, missingSites := 0, skippedSites := 0
                  touchdownsApplied := 0, touchdownsVoided := 0, windowsClosed := 0, alarmsRaised := 0, run := 0
                  window := ⟨0, 0, 0, Vector.replicate 16 0, Vector.replicate 16 0, Vector.replicate 8 0⟩
                  alarms := Vector.replicate 26 ⟨.clear, none, false, 0⟩ }
                let e := (tabGet s.lots l).getD ⟨a.lotText, 0, 0, 0, 0, 0, Vector.replicate 64 0, false⟩
                let t := { s.popHost rest with
                  map := mapClear (k * size) size s.map
                  lots := tabSet s.lots l (some { e with opened := min (e.opened + 1) 16777215 })
                  slots := tabSet s.slots i ⟨g, some w⟩ }
                (((t.queueOut a.port (.assign h a.lotText a.number a.rows a.columns a.policy)).judgeHeld a.port h
                  none).settleLamps).compose 0xC8 [0, h])

/-- The block of a wafer is the smallest size that holds its grid, at the lowest aligned base in the store
that is free; the lot entry it joins is the one in use with its lot id, or the free one of lowest index,
absent where none is free or the entry's opened count is at its top; and a clearing leaves every cell of
the block untested and every other as it was. The largest placeable size is the largest of the five that
can be placed, and 0 where none can (R7, R8, R9, R12, R132). -/
def Obligations.PlacementAndLotsFollowTheirRules : Prop :=
  (∀ (s : State) (b : Nat × Nat), b ∈ s.blocks ↔ ∃ i w, s.waferAt i = some w ∧ b = (w.base, w.size)) ∧
  (∀ (blocks : List (Nat × Nat)) (base size : Nat),
    spanFree blocks base size = true ↔ ∀ b ∈ blocks, base + size ≤ b.1 ∨ b.1 + b.2 ≤ base) ∧
  (∀ n, 1 ≤ n → n ≤ 262144 → blockSizeFor n ∈ [16384, 32768, 65536, 131072, 262144] ∧ n ≤ blockSizeFor n ∧
    ∀ z ∈ [16384, 32768, 65536, 131072, 262144], n ≤ z → blockSizeFor n ≤ z) ∧
  (∀ (blocks : List (Nat × Nat)) (size base : Nat), size ∈ [16384, 32768, 65536, 131072, 262144] →
    (placeBlock blocks size = some base ↔
      (size ∣ base ∧ base + size ≤ 1048576 ∧ ∀ b ∈ blocks, base + size ≤ b.1 ∨ b.1 + b.2 ≤ base) ∧
      ∀ c, c < base → size ∣ c → ¬∀ b ∈ blocks, c + size ≤ b.1 ∨ b.1 + b.2 ≤ c)) ∧
  (∀ (s : State) (lot : List Byte) (l : LotId),
    (∀ j k, ∀ d ∈ tabGet s.lots j, ∀ e ∈ tabGet s.lots k, d.lotText = e.lotText → j = k) →
    ((∃ e ∈ tabGet s.lots l, e.lotText = lot ∧ e.opened < 16777215) → s.lotFor lot = some l) ∧
    ((∃ e ∈ tabGet s.lots l, e.lotText = lot ∧ e.opened = 16777215) → s.lotFor lot = none) ∧
    ((∀ j, ∀ e ∈ tabGet s.lots j, e.lotText ≠ lot) → tabGet s.lots l = none → (∀ j < l, tabGet s.lots j ≠ none) →
      s.lotFor lot = some l) ∧
    ((∀ j, ∃ e ∈ tabGet s.lots j, e.lotText ≠ lot) → s.lotFor lot = none)) ∧
  (∀ (m : List Host.Cell) (base size a : Nat),
    mapRead a (mapClear base size m) = if base ≤ a ∧ a < base + size then 0 else mapRead a m) ∧
  ∀ s : State,
    (∀ z ∈ [16384, 32768, 65536, 131072, 262144], (placeBlock s.blocks z).isSome = true → z ≤ s.largestPlaceable) ∧
    (s.largestPlaceable ∈ [16384, 32768, 65536, 131072, 262144] ∧ (placeBlock s.blocks s.largestPlaceable).isSome = true ∨
      s.largestPlaceable = 0 ∧ ∀ z ∈ [16384, 32768, 65536, 131072, 262144], placeBlock s.blocks z = none)

/-- WAFER_CLOSE and WAFER_ABANDON refuse an unknown handle and a wafer that is not bound; otherwise they
void the wafer's entries, handing over a SEALED entry that becomes the front, queue CANCEL while the head is
UP, and end the wafer, CLOSED with cause FORCED or ABANDONED with its lot counted (R32, R33, R34, R61,
R135). The last clause is a bound wafer without a port, which the binding law rules out. The lamps follow each
transition, latch and unbinding inside the command: log 10. -/
def Obligations.HostEndingsVoidCancelAndEnd : Prop :=
  ∀ (s : State) (c : Instr) (k h : Byte) (rest : List Frame),
    (c, k) ∈ [(Instr.waferClose, (0x49 : Byte)), (.waferAbandon, 0x4A)] → s.cellsExist = true → s.HostFinds k [h] rest →
    (s.resolve h = none → exec c s = .next (s.answered rest k [4])) ∧
    ∀ i w, s.resolve h = some i → s.waferAt i = some w →
      (w.state = .closed ∨ w.state = .abandoned → exec c s = .next (s.answered rest k [5])) ∧
      (∀ p, w.state.isBound = true → w.boundPort = some p →
        exec c s = .next (
          let es := (s.port p).touchdowns
          let kept := es.filter fun e => e.handle ≠ h
          let n := (es.filter fun e => e.handle = h).length
          let voided := ((s.popHost rest).withWafer i fun w => { w with
            touchdownsVoided := min (w.touchdownsVoided + n) 16777215 }).withPort p fun q => { q with touchdowns := kept }
          let handed := if es.head?.map (·.handle) = some h then voided.pass p kept else voided
          let cancelled := if (s.port p).session = .up then handed.queueOut p (.cancel h) else handed
          let ended := if c = .waferClose then cancelled.enterClosed i .forced else cancelled.enterAbandoned i
          ended.compose (k + 0x80) [0, h])) ∧
      (w.state.isBound = true → w.boundPort = none →
        exec c s = .next ((if c = .waferClose then (s.popHost rest).enterClosed i .forced
          else (s.popHost rest).enterAbandoned i).compose (k + 0x80) [0, h]))

/-- WAFER_RESUME is judged in the order of R31; one that passes makes the wafer ACTIVE on the named port
with its head's serial, queues ASSIGN, and judges the former and the named port (R31, R125, R149). That
ASSIGN is queued before HELD is judged is log 23; that a held wafer moved to another port ends and starts the HOLD
condition, with the lamps derived at each, is log 10. WAFER_DISCARD frees the slot of a wafer that is not bound,
keeping its generation (R10, R36). -/
def Obligations.ResumesRebindAndDiscardsFree : Prop :=
  (∀ (s : State) (h : Byte),
    (∀ o, s.judgeBound none h o = s ∧ ∀ p, s.judgeBound (some p) h o = s.judgeHeld p h o) ∧
    s.dropAssignAt none h = s ∧ ∀ p, s.dropAssignAt (some p) h = s.withPort p fun q => { q with
      outbound := q.outbound.filter fun f => !f.assigns h }) ∧
  RefusesLength .waferResume 0x4B ∧ RefusesLength .waferDiscard 0x4C ∧
  (∀ (s : State) (h b : Byte) (rest : List Frame), s.HostFinds 0x4B [h, b] rest →
    exec .waferResume s = .next (
      let refuse := fun (code : Byte) => s.answered rest 0x4B [code]
      match portIds.find? (fun p => p.val = b.toNat) with
      | none => refuse 2
      | some p =>
        match s.resolve h with
        | none => refuse 4
        | some i =>
          match s.waferAt i with
          | none => refuse 4
          | some w =>
            if w.state ≠ .suspended then refuse 5
            else if (s.port p).session ≠ .up then refuse 11
            else if ∃ j, j ≠ i ∧ ((s.waferAt j).any fun v =>
                (v.state == .active || v.state == .suspended) && v.boundPort == some p) = true then refuse 10
            else
              let bound := (s.popHost rest).withWafer i fun w => { w with
                state := .active, boundPort := some p, serial := (s.port p).serial }
              let t := (bound.dropAssignAt w.boundPort h).queueOut p
                (.assign h w.lotText w.number w.rows w.columns w.policy)
              (((t.judgeBound w.boundPort h none).judgeHeld p h none).settleLamps).compose 0xCB [0, h])) ∧
  ∀ (s : State) (h : Byte) (rest : List Frame), s.HostFinds 0x4C [h] rest →
    exec .waferDiscard s = .next (
      match (s.resolve h).bind fun i => (s.waferAt i).map fun w => (i, w) with
      | none => s.answered rest 0x4C [4]
      | some (i, w) =>
        if w.state.isBound = true then s.answered rest 0x4C [5]
        else { s with slots := tabModify s.slots i fun sl => { sl with wafer := none } }.answered rest 0x4C [0, h])

/-- LIMITS_STAGE of a profile carried, of the power-up default profile or of a profile page makes it the
staged profile of a bound wafer with its source, and changes nothing else; it refuses a page id out of
range, a profile carried out of range, an unknown handle, a wafer that is not bound, and a page in flight or
not VALID. A profile carried is read by the fields of Table 5-1 in order. HOLD_RELEASE acknowledges every record RAISED at HOLD, judges the bound port, and answers their
number, and the lamps follow (R102, R103, R118, R121, R126). That the lamps are derived at the change of HELD and at
the command's end is log 10. -/
def Obligations.StagingAndReleasing : Prop :=
  (∀ (bs : List Byte) (o : Nat),
    let one := fun (i : Nat) => (bs.getD (o + i) 0).toNat
    let two := fun (i : Nat) => 256 * one i + one (i + 1)
    readProfile bs o = ⟨two 0, one 2, one 3, two 4, two 6, two 8, two 10, one 12, one 13, two 14, two 16, two 18,
      (List.range (one 20)).map fun k => ⟨one (21 + 5 * k), two (22 + 5 * k), two (24 + 5 * k)⟩⟩) ∧
  RefusesLength .limitsStage 0x50 ∧ RefusesLength .holdRelease 0x52 ∧
  (∀ (s : State) (h : Byte) (bs : List Byte) (prof : Profile) (source : Byte) (rest : List Frame),
    (prof.accepted = true ∧ bs = h :: prof.image ∧ source = 0xFE ∨
      prof = s.defaultProfile ∧ bs = [h, 0xFF] ∧ source = 0xFF) →
    s.HostFinds 0x50 bs rest →
    exec .limitsStage s = .next (
      match (s.resolve h).bind fun i => (s.waferAt i).map fun w => (i, w) with
      | none => s.answered rest 0x50 [4]
      | some (i, w) =>
        if w.state.isBound = false then s.answered rest 0x50 [5]
        else (s.withWafer i fun w => { w with staged := some ⟨prof, source⟩ }).answered rest 0x50 [0, h])) ∧
  (∀ (s : State) (h : Byte) (j : Fin 6) (rest : List Frame), s.HostFinds 0x50 [h, BitVec.ofNat 8 (j.val + 2)] rest →
    exec .limitsStage s = .next (
      match (s.resolve h).bind fun i => (s.waferAt i).map fun w => (i, w) with
      | none => s.answered rest 0x50 [4]
      | some (i, w) =>
        if w.state.isBound = false then s.answered rest 0x50 [5]
        else if s.pageOp.map (·.job.page) = some (.profile j) then s.answered rest 0x50 [1]
        else
          match s.profilePage j with
          | .valid prof => (s.withWafer i fun w => { w with
              staged := some ⟨prof, BitVec.ofNat 8 (j.val + 2)⟩ }).answered rest 0x50 [0, h]
          | _ => s.answered rest 0x50 [13])) ∧
  (∀ (s : State) (h b : Byte) (rest : List Frame), s.HostFinds 0x50 [h, b] rest → b.toNat < 2 ∨ 7 < b.toNat → b ≠ 0xFF →
    exec .limitsStage s = .next (s.answered rest 0x50 [2])) ∧
  (∀ (s : State) (bs : List Byte) (rest : List Frame), s.HostFinds 0x50 bs rest → bs.length ≠ 2 →
    imageLengthOk bs = true → (readProfile bs 1).accepted = false →
    exec .limitsStage s = .next (s.answered rest 0x50 [12])) ∧
  (∀ (s : State) (h : Byte) (rest : List Frame), s.HostFinds 0x52 [h] rest → s.resolve h = none →
    exec .holdRelease s = .next (s.answered rest 0x52 [4])) ∧
  ∀ (s : State) (h : Byte) (i : SlotId) (w : Wafer) (rest : List Frame), s.HostFinds 0x52 [h] rest →
    s.resolve h = some i → s.waferAt i = some w →
    exec .holdRelease s = .next (
      let t := (s.popHost rest).withWafer i fun w => { w with
        alarms := Vector.ofFn fun src => if (tabGet w.alarms src).holds then { tabGet w.alarms src with acked := true }
          else tabGet w.alarms src }
      let judged := if w.state.isBound = true then t.judgeBound w.boundPort h none else t
      judged.settleLamps.compose 0xD2 [0, h, BitVec.ofNat 8 (sources.filter fun src => (tabGet w.alarms src).holds).length])

/-- BINS_SET replaces the whole bin class table unless a code is out of range or a wafer is bound, LAMP_SET
the whole lamp table unless a code is out of range, with the lamps derived again, and ALERT_SET the alert
enable (R3, R129, R172). -/
def Obligations.TableWritesReplaceTheTable : Prop :=
  RefusesLength .binsSet 0x54 ∧ RefusesLength .lampSet 0x56 ∧ RefusesLength .alertSet 0x57 ∧
  (∀ (s : State) (bs : List Byte) (rest : List Frame), s.HostFinds 0x54 bs rest → bs.length = 64 →
    exec .binsSet s = .next (
      if (∃ c ∈ bs, 2 < c.toNat) ∨ bs.getD 0 0 ≠ 0 then s.answered rest 0x54 [2]
      else if ∃ i, (s.waferAt i).any fun w => w.state.isBound then s.answered rest 0x54 [5]
      else
        let classes : Vector BinClass 64 := Vector.ofFn fun b =>
          if bs.getD b.val 0 = 0 then .unused else if bs.getD b.val 0 = 1 then .pass else .fail
        { s with bins := classes }.answered rest 0x54 [0])) ∧
  (∀ (s : State) (t : LampTable) (rest : List Frame), s.HostFinds 0x56 t.chars rest →
    exec .lampSet s = .next (({ s with lampTable := t }.settleLamps).answered rest 0x56 [0])) ∧
  (∀ (s : State) (bs : List Byte) (rest : List Frame), s.HostFinds 0x56 bs rest → bs.length = 10 →
    (∃ i < 5, 3 < (bs.getD (2 * i) 0).toNat ∨ 5 < (bs.getD (2 * i + 1) 0).toNat) →
    exec .lampSet s = .next (s.answered rest 0x56 [2])) ∧
  ∀ (s : State) (b : Byte) (rest : List Frame), s.HostFinds 0x57 [b] rest →
    exec .alertSet s = .next (
      if 1 < b.toNat then s.answered rest 0x57 [2]
      else { s with alertEnable := decide (b = 1) }.answered rest 0x57 [0])

/-- LOT_END answers the fields of LOT_READ with no bound member, frees the entry and makes the lot entry
field of its members absent; it is refused for an index above 3, a free entry and an entry with a bound
member (R37, R138). -/
def Obligations.LotEndFreesTheEntry : Prop :=
  RefusesLength .lotEnd 0x59 ∧
  ∀ (s : State) (n : Byte) (rest : List Frame), s.HostFinds 0x59 [n] rest →
    exec .lotEnd s = .next (
      match lotIds.find? (fun l => l.val = n.toNat) with
      | none => s.answered rest 0x59 [2]
      | some l =>
        match tabGet s.lots l with
        | none => s.answered rest 0x59 [8]
        | some e =>
          if ∃ i, (s.waferAt i).any fun w => w.state.isBound && w.lotEntry == some l then s.answered rest 0x59 [5]
          else
            let leave := fun (w : Wafer) => { w with lotEntry := if w.lotEntry = some l then none else w.lotEntry }
            let slots : Vector Slot 12 := Vector.ofFn fun i => ⟨(tabGet s.slots i).generation, (s.waferAt i).map leave⟩
            { s with lots := tabSet s.lots l none, slots := slots }.answered rest 0x59 (0 :: n :: e.lotText ++ write3 e.opened ++ write3 e.closed ++ write3 e.abandoned ++ [0] ++
              write3 e.tested ++ write3 e.pass ++ [if e.lowReported = true then 1 else 0] ++
              (tabList e.bins).tail.flatMap write3))

/-- A notice joins the back of the queue while it holds fewer than 32, and is dropped with the overflow flag
set while it holds 32; NOTICE_FETCH answers and removes the oldest 8, with the flag as it stood and the
number that remain, and clears the flag; ALERT is asserted exactly while alerts are enabled and the queue is
not empty. Each notice is fetched as its record of five characters: kind code, port, handle, detail, level, as
Tables 9-3 and 9-8 give them (R170, R171, R172, R176). -/
def Obligations.NoticesAreQueuedAndFetched : Prop :=
  RefusesLength .noticeFetch 0x5A ∧
  (∀ (s : State) (n : Notice),
    (s.notices.length < 32 → s.notify n = { s with notices := s.notices ++ [n] }) ∧
    (32 ≤ s.notices.length → s.notify n = { s with overflow := true })) ∧
  (∀ (s : State) (rest : List Frame), s.HostFinds 0x5A [] rest →
    exec .noticeFetch s = .next ({ s with notices := s.notices.drop 8, overflow := false }.answered rest 0x5A
      ([0, if s.overflow = true then 1 else 0, BitVec.ofNat 8 (min 8 s.notices.length),
        BitVec.ofNat 8 (s.notices.length - 8)] ++ (s.notices.take 8).flatMap Notice.record))) ∧
  (∀ s : State, s.alert = true ↔ s.alertEnable = true ∧ s.notices ≠ []) ∧
  ∀ n : Notice, n.record =
    let port := fun (p : Option PortId) => match p with | none => (0xFF : Byte) | some p => BitVec.ofNat 8 p.val
    let level := fun (l : Level) => match l with | .warn => (1 : Byte) | .hold => 2
    match n with
    | .headUp p resumed => [1, port (some p), (match resumed with | none => 0xFF | some h => h), 0, 0]
    | .headLost p cause => [2, port (some p), 0xFF,
        (match cause with | .silence => 1 | .brk => 2 | .restart => 3 | .dropped => 4 | .disabled => 5), 0]
    | .linkFault p => [3, port (some p), 0xFF, 0, 0]
    | .waferSuspended p h => [4, port (some p), h, 0, 0]
    | .waferClosed p h cause => [5, port p, h, (match cause with | .unloaded => 1 | .forced => 2 | .headLost => 3), 0]
    | .alarmRaised p h src l => [6, port p, h, BitVec.ofNat 8 src.val, level l]
    | .alarmCleared p h src l => [7, port p, h, BitVec.ofNat 8 src.val, level l]
    | .holdOn p h src => [8, port (some p), h, BitVec.ofNat 8 src.val, 2]
    | .holdOff p h => [9, port (some p), h, 0, 0]
    | .lotLow p h l => [10, port p, h, BitVec.ofNat 8 l.val, 0]
    | .pageDone page result => [11, 0xFF, 0xFF, page, match result with | .erased => 1 | .written => 2 | .failed => 3]
end

