-- ==== Sys2Proof/Laws/State.lean ====
section
/-! SUPPORT. Reading after writing: the fixed tables, and every field of the state after every update. -/
namespace Sys2Proof.Machine

/-! ### The fixed tables -/

@[simp] theorem tabGet_tabSet_self {α : Type} {n : Nat} (v : Vector α n) (i : Fin n) (x : α) :
    tabGet (tabSet v i x) i = x := by simp [tabGet, tabSet]

@[simp] theorem tabGet_tabSet_ne {α : Type} {n : Nat} (v : Vector α n) {i j : Fin n} (x : α) (h : j ≠ i) :
    tabGet (tabSet v i x) j = tabGet v j := by
  have h' : i.val ≠ j.val := fun e => h (Fin.ext e.symm)
  simp [tabGet, tabSet, h']

theorem tabGet_tabSet {α : Type} {n : Nat} (v : Vector α n) (i j : Fin n) (x : α) :
    tabGet (tabSet v i x) j = if j = i then x else tabGet v j := by
  split
  · next h => rw [h, tabGet_tabSet_self]
  · next h => rw [tabGet_tabSet_ne v x h]

theorem tabGet_tabModify {α : Type} {n : Nat} (v : Vector α n) (i j : Fin n) (f : α → α) :
    tabGet (tabModify v i f) j = if j = i then f (tabGet v i) else tabGet v j := tabGet_tabSet v i j _

@[simp] theorem tabGet_tabMap {α β : Type} {n : Nat} (f : α → β) (v : Vector α n) (i : Fin n) :
    tabGet (tabMap f v) i = f (tabGet v i) := by simp [tabGet, tabMap]

@[simp] theorem tabGet_replicate {α : Type} {n : Nat} (x : α) (i : Fin n) :
    tabGet (Vector.replicate n x) i = x := by simp [tabGet]

theorem tab_ext {α : Type} {n : Nat} {v w : Vector α n} (h : ∀ i, tabGet v i = tabGet w i) : v = w :=
  Vector.ext fun i hi => h ⟨i, hi⟩

theorem mem_tabList {α : Type} {n : Nat} (v : Vector α n) (x : α) :
    x ∈ tabList v ↔ ∃ i : Fin n, tabGet v i = x := by
  unfold tabList tabGet
  rw [Array.mem_toList_iff, Array.mem_iff_getElem]
  constructor
  · rintro ⟨i, hi, h⟩
    exact ⟨⟨i, by simpa using hi⟩, by simpa using h⟩
  · rintro ⟨i, h⟩
    exact ⟨i.val, by simp, by simpa using h⟩

theorem tabList_any {α : Type} {n : Nat} (v : Vector α n) (f : α → Bool) :
    (tabList v).any f = true ↔ ∃ i : Fin n, f (tabGet v i) = true := by
  simp only [List.any_eq_true, mem_tabList]
  constructor
  · rintro ⟨_, ⟨i, rfl⟩, h⟩; exact ⟨i, h⟩
  · rintro ⟨i, h⟩; exact ⟨_, ⟨i, rfl⟩, h⟩

theorem tabList_all {α : Type} {n : Nat} (v : Vector α n) (f : α → Bool) :
    (tabList v).all f = true ↔ ∀ i : Fin n, f (tabGet v i) = true := by
  simp only [List.all_eq_true, mem_tabList]
  constructor
  · intro h i; exact h _ ⟨i, rfl⟩
  · rintro h _ ⟨i, rfl⟩; exact h i

theorem mem_slotIds : ∀ i : SlotId, i ∈ slotIds := by decide

theorem mem_portIds : ∀ p : PortId, p ∈ portIds := by decide

theorem mem_lotIds : ∀ l : LotId, l ∈ lotIds := by decide

theorem mem_siteIds : ∀ n : SiteId, n ∈ siteIds := by decide

theorem slotIds_nodup : slotIds.Nodup := by decide

/-! ### The head ports -/

@[simp] theorem State.port_withPort_self (s : State) (p : PortId) (f : Port → Port) :
    (s.withPort p f).port p = f (s.port p) := by
  simp [State.port, State.withPort, tabModify]

@[simp] theorem State.port_withPort_ne (s : State) {p q : PortId} (f : Port → Port) (h : q ≠ p) :
    (s.withPort p f).port q = s.port q := by
  simp [State.port, State.withPort, tabModify, h]

theorem State.port_withPort (s : State) (p q : PortId) (f : Port → Port) :
    (s.withPort p f).port q = if q = p then f (s.port q) else s.port q := by
  split
  · next h => subst h; simp
  · next h => simp [h]

/-! ### The wafer slots -/

theorem State.slot_withWafer (s : State) (i j : SlotId) (f : Wafer → Wafer) :
    tabGet (s.withWafer i f).slots j =
      ⟨(tabGet s.slots j).generation, if j = i then (s.waferAt i).map f else s.waferAt j⟩ := by
  unfold State.withWafer State.waferAt
  rw [tabGet_tabModify]
  split
  · next h => subst h; rfl
  · rfl

@[simp] theorem State.waferAt_withWafer_self (s : State) (i : SlotId) (f : Wafer → Wafer) :
    (s.withWafer i f).waferAt i = (s.waferAt i).map f := by
  simp [State.waferAt, State.withWafer, tabModify]

@[simp] theorem State.waferAt_withWafer_ne (s : State) {i j : SlotId} (f : Wafer → Wafer) (h : j ≠ i) :
    (s.withWafer i f).waferAt j = s.waferAt j := by
  simp [State.waferAt, State.withWafer, tabModify, h]

theorem State.waferAt_withWafer (s : State) (i j : SlotId) (f : Wafer → Wafer) :
    (s.withWafer i f).waferAt j = if j = i then (s.waferAt i).map f else s.waferAt j := by
  split
  · next h => subst h; simp
  · next h => simp [h]

@[simp] theorem State.generation_withWafer (s : State) (i j : SlotId) (f : Wafer → Wafer) :
    (tabGet (s.withWafer i f).slots j).generation = (tabGet s.slots j).generation := by
  rw [State.slot_withWafer]

/-! ### One update after another -/

theorem tabModify_congr {α : Type} {n : Nat} (v : Vector α n) (i : Fin n) {f g : α → α}
    (h : f (tabGet v i) = g (tabGet v i)) : tabModify v i f = tabModify v i g := by
  unfold tabModify; rw [h]

theorem tabModify_id {α : Type} {n : Nat} (v : Vector α n) (i : Fin n) {f : α → α}
    (h : f (tabGet v i) = tabGet v i) : tabModify v i f = v := by
  apply tab_ext; intro j
  rw [tabGet_tabModify]
  split
  · next e => rw [h, e]
  · rfl

theorem tabModify_tabModify {α : Type} {n : Nat} (v : Vector α n) (i : Fin n) (f g : α → α) :
    tabModify (tabModify v i f) i g = tabModify v i (g ∘ f) := by
  apply tab_ext; intro j
  simp only [tabGet_tabModify, if_true, Function.comp]
  split <;> rfl

/-- Two changes of a port that agree on the port as it stands are one. -/
theorem State.withPort_congr (s : State) (p : PortId) {f g : Port → Port} (h : f (s.port p) = g (s.port p)) :
    s.withPort p f = s.withPort p g := by
  unfold State.withPort; rw [tabModify_congr _ _ h]

theorem State.withPort_id (s : State) (p : PortId) {f : Port → Port} (h : f (s.port p) = s.port p) :
    s.withPort p f = s := by
  unfold State.withPort; rw [tabModify_id _ _ h]

theorem State.withPort_withPort (s : State) (p : PortId) (f g : Port → Port) :
    (s.withPort p f).withPort p g = s.withPort p (g ∘ f) := by
  simp only [State.withPort, tabModify_tabModify]

/-- Two changes of a wafer that agree on the wafer as it stands are one. -/
theorem State.withWafer_congr (s : State) (i : SlotId) {f g : Wafer → Wafer}
    (h : ∀ w, s.waferAt i = some w → f w = g w) : s.withWafer i f = s.withWafer i g := by
  unfold State.withWafer
  rw [tabModify_congr]
  have : (tabGet s.slots i).wafer = s.waferAt i := rfl
  simp only [this]
  cases hw : s.waferAt i with
  | none => rfl
  | some w => simp [h w hw]

theorem State.withWafer_withWafer (s : State) (i : SlotId) (f g : Wafer → Wafer) :
    (s.withWafer i f).withWafer i g = s.withWafer i (g ∘ f) := by
  simp only [State.withWafer, tabModify_tabModify]
  rw [tabModify_congr]
  simp [Function.comp, Option.map_map]

/-! ### `withPort` changes ports alone -/

@[simp] theorem State.withPort_map (s : State) (p : PortId) (f : Port → Port) : (s.withPort p f).map = s.map := rfl
@[simp] theorem State.withPort_bins (s : State) (p : PortId) (f : Port → Port) : (s.withPort p f).bins = s.bins := rfl
@[simp] theorem State.withPort_slots (s : State) (p : PortId) (f : Port → Port) : (s.withPort p f).slots = s.slots := rfl
@[simp] theorem State.withPort_lots (s : State) (p : PortId) (f : Port → Port) : (s.withPort p f).lots = s.lots := rfl
@[simp] theorem State.withPort_lampTable (s : State) (p : PortId) (f : Port → Port) : (s.withPort p f).lampTable = s.lampTable := rfl
@[simp] theorem State.withPort_lamps (s : State) (p : PortId) (f : Port → Port) : (s.withPort p f).lamps = s.lamps := rfl
@[simp] theorem State.withPort_host (s : State) (p : PortId) (f : Port → Port) : (s.withPort p f).host = s.host := rfl
@[simp] theorem State.withPort_notices (s : State) (p : PortId) (f : Port → Port) : (s.withPort p f).notices = s.notices := rfl
@[simp] theorem State.withPort_overflow (s : State) (p : PortId) (f : Port → Port) : (s.withPort p f).overflow = s.overflow := rfl
@[simp] theorem State.withPort_alertEnable (s : State) (p : PortId) (f : Port → Port) : (s.withPort p f).alertEnable = s.alertEnable := rfl
@[simp] theorem State.withPort_defaultProfile (s : State) (p : PortId) (f : Port → Port) : (s.withPort p f).defaultProfile = s.defaultProfile := rfl
@[simp] theorem State.withPort_identity (s : State) (p : PortId) (f : Port → Port) : (s.withPort p f).identity = s.identity := rfl
@[simp] theorem State.withPort_page1 (s : State) (p : PortId) (f : Port → Port) : (s.withPort p f).page1 = s.page1 := rfl
@[simp] theorem State.withPort_profilePages (s : State) (p : PortId) (f : Port → Port) : (s.withPort p f).profilePages = s.profilePages := rfl
@[simp] theorem State.withPort_pageOp (s : State) (p : PortId) (f : Port → Port) : (s.withPort p f).pageOp = s.pageOp := rfl
@[simp] theorem State.withPort_pending (s : State) (p : PortId) (f : Port → Port) : (s.withPort p f).pending = s.pending := rfl

/-! ### `withWafer` changes slots alone -/

@[simp] theorem State.withWafer_map (s : State) (i : SlotId) (f : Wafer → Wafer) : (s.withWafer i f).map = s.map := rfl
@[simp] theorem State.withWafer_bins (s : State) (i : SlotId) (f : Wafer → Wafer) : (s.withWafer i f).bins = s.bins := rfl
@[simp] theorem State.withWafer_lots (s : State) (i : SlotId) (f : Wafer → Wafer) : (s.withWafer i f).lots = s.lots := rfl
@[simp] theorem State.withWafer_ports (s : State) (i : SlotId) (f : Wafer → Wafer) : (s.withWafer i f).ports = s.ports := rfl
@[simp] theorem State.withWafer_lampTable (s : State) (i : SlotId) (f : Wafer → Wafer) : (s.withWafer i f).lampTable = s.lampTable := rfl
@[simp] theorem State.withWafer_lamps (s : State) (i : SlotId) (f : Wafer → Wafer) : (s.withWafer i f).lamps = s.lamps := rfl
@[simp] theorem State.withWafer_host (s : State) (i : SlotId) (f : Wafer → Wafer) : (s.withWafer i f).host = s.host := rfl
@[simp] theorem State.withWafer_notices (s : State) (i : SlotId) (f : Wafer → Wafer) : (s.withWafer i f).notices = s.notices := rfl
@[simp] theorem State.withWafer_overflow (s : State) (i : SlotId) (f : Wafer → Wafer) : (s.withWafer i f).overflow = s.overflow := rfl
@[simp] theorem State.withWafer_alertEnable (s : State) (i : SlotId) (f : Wafer → Wafer) : (s.withWafer i f).alertEnable = s.alertEnable := rfl
@[simp] theorem State.withWafer_defaultProfile (s : State) (i : SlotId) (f : Wafer → Wafer) : (s.withWafer i f).defaultProfile = s.defaultProfile := rfl
@[simp] theorem State.withWafer_identity (s : State) (i : SlotId) (f : Wafer → Wafer) : (s.withWafer i f).identity = s.identity := rfl
@[simp] theorem State.withWafer_page1 (s : State) (i : SlotId) (f : Wafer → Wafer) : (s.withWafer i f).page1 = s.page1 := rfl
@[simp] theorem State.withWafer_profilePages (s : State) (i : SlotId) (f : Wafer → Wafer) : (s.withWafer i f).profilePages = s.profilePages := rfl
@[simp] theorem State.withWafer_pageOp (s : State) (i : SlotId) (f : Wafer → Wafer) : (s.withWafer i f).pageOp = s.pageOp := rfl
@[simp] theorem State.withWafer_pending (s : State) (i : SlotId) (f : Wafer → Wafer) : (s.withWafer i f).pending = s.pending := rfl

/-! ### `fillSlot` changes slots alone -/

@[simp] theorem State.fillSlot_map (s : State) (i : SlotId) (w : Wafer) : (s.fillSlot i w).map = s.map := rfl
@[simp] theorem State.fillSlot_bins (s : State) (i : SlotId) (w : Wafer) : (s.fillSlot i w).bins = s.bins := rfl
@[simp] theorem State.fillSlot_lots (s : State) (i : SlotId) (w : Wafer) : (s.fillSlot i w).lots = s.lots := rfl
@[simp] theorem State.fillSlot_ports (s : State) (i : SlotId) (w : Wafer) : (s.fillSlot i w).ports = s.ports := rfl
@[simp] theorem State.fillSlot_lampTable (s : State) (i : SlotId) (w : Wafer) : (s.fillSlot i w).lampTable = s.lampTable := rfl
@[simp] theorem State.fillSlot_lamps (s : State) (i : SlotId) (w : Wafer) : (s.fillSlot i w).lamps = s.lamps := rfl
@[simp] theorem State.fillSlot_host (s : State) (i : SlotId) (w : Wafer) : (s.fillSlot i w).host = s.host := rfl
@[simp] theorem State.fillSlot_notices (s : State) (i : SlotId) (w : Wafer) : (s.fillSlot i w).notices = s.notices := rfl
@[simp] theorem State.fillSlot_overflow (s : State) (i : SlotId) (w : Wafer) : (s.fillSlot i w).overflow = s.overflow := rfl
@[simp] theorem State.fillSlot_alertEnable (s : State) (i : SlotId) (w : Wafer) : (s.fillSlot i w).alertEnable = s.alertEnable := rfl
@[simp] theorem State.fillSlot_defaultProfile (s : State) (i : SlotId) (w : Wafer) : (s.fillSlot i w).defaultProfile = s.defaultProfile := rfl
@[simp] theorem State.fillSlot_identity (s : State) (i : SlotId) (w : Wafer) : (s.fillSlot i w).identity = s.identity := rfl
@[simp] theorem State.fillSlot_page1 (s : State) (i : SlotId) (w : Wafer) : (s.fillSlot i w).page1 = s.page1 := rfl
@[simp] theorem State.fillSlot_profilePages (s : State) (i : SlotId) (w : Wafer) : (s.fillSlot i w).profilePages = s.profilePages := rfl
@[simp] theorem State.fillSlot_pageOp (s : State) (i : SlotId) (w : Wafer) : (s.fillSlot i w).pageOp = s.pageOp := rfl
@[simp] theorem State.fillSlot_pending (s : State) (i : SlotId) (w : Wafer) : (s.fillSlot i w).pending = s.pending := rfl

/-! ### `freeSlotAt` changes slots alone -/

@[simp] theorem State.freeSlotAt_map (s : State) (i : SlotId) : (s.freeSlotAt i).map = s.map := rfl
@[simp] theorem State.freeSlotAt_bins (s : State) (i : SlotId) : (s.freeSlotAt i).bins = s.bins := rfl
@[simp] theorem State.freeSlotAt_lots (s : State) (i : SlotId) : (s.freeSlotAt i).lots = s.lots := rfl
@[simp] theorem State.freeSlotAt_ports (s : State) (i : SlotId) : (s.freeSlotAt i).ports = s.ports := rfl
@[simp] theorem State.freeSlotAt_lampTable (s : State) (i : SlotId) : (s.freeSlotAt i).lampTable = s.lampTable := rfl
@[simp] theorem State.freeSlotAt_lamps (s : State) (i : SlotId) : (s.freeSlotAt i).lamps = s.lamps := rfl
@[simp] theorem State.freeSlotAt_host (s : State) (i : SlotId) : (s.freeSlotAt i).host = s.host := rfl
@[simp] theorem State.freeSlotAt_notices (s : State) (i : SlotId) : (s.freeSlotAt i).notices = s.notices := rfl
@[simp] theorem State.freeSlotAt_overflow (s : State) (i : SlotId) : (s.freeSlotAt i).overflow = s.overflow := rfl
@[simp] theorem State.freeSlotAt_alertEnable (s : State) (i : SlotId) : (s.freeSlotAt i).alertEnable = s.alertEnable := rfl
@[simp] theorem State.freeSlotAt_defaultProfile (s : State) (i : SlotId) : (s.freeSlotAt i).defaultProfile = s.defaultProfile := rfl
@[simp] theorem State.freeSlotAt_identity (s : State) (i : SlotId) : (s.freeSlotAt i).identity = s.identity := rfl
@[simp] theorem State.freeSlotAt_page1 (s : State) (i : SlotId) : (s.freeSlotAt i).page1 = s.page1 := rfl
@[simp] theorem State.freeSlotAt_profilePages (s : State) (i : SlotId) : (s.freeSlotAt i).profilePages = s.profilePages := rfl
@[simp] theorem State.freeSlotAt_pageOp (s : State) (i : SlotId) : (s.freeSlotAt i).pageOp = s.pageOp := rfl
@[simp] theorem State.freeSlotAt_pending (s : State) (i : SlotId) : (s.freeSlotAt i).pending = s.pending := rfl

/-! ### `joinLot` changes lots alone -/

@[simp] theorem State.joinLot_map (s : State) (l : LotId) (lot : List Byte) : (s.joinLot l lot).map = s.map := rfl
@[simp] theorem State.joinLot_bins (s : State) (l : LotId) (lot : List Byte) : (s.joinLot l lot).bins = s.bins := rfl
@[simp] theorem State.joinLot_slots (s : State) (l : LotId) (lot : List Byte) : (s.joinLot l lot).slots = s.slots := rfl
@[simp] theorem State.joinLot_ports (s : State) (l : LotId) (lot : List Byte) : (s.joinLot l lot).ports = s.ports := rfl
@[simp] theorem State.joinLot_lampTable (s : State) (l : LotId) (lot : List Byte) : (s.joinLot l lot).lampTable = s.lampTable := rfl
@[simp] theorem State.joinLot_lamps (s : State) (l : LotId) (lot : List Byte) : (s.joinLot l lot).lamps = s.lamps := rfl
@[simp] theorem State.joinLot_host (s : State) (l : LotId) (lot : List Byte) : (s.joinLot l lot).host = s.host := rfl
@[simp] theorem State.joinLot_notices (s : State) (l : LotId) (lot : List Byte) : (s.joinLot l lot).notices = s.notices := rfl
@[simp] theorem State.joinLot_overflow (s : State) (l : LotId) (lot : List Byte) : (s.joinLot l lot).overflow = s.overflow := rfl
@[simp] theorem State.joinLot_alertEnable (s : State) (l : LotId) (lot : List Byte) : (s.joinLot l lot).alertEnable = s.alertEnable := rfl
@[simp] theorem State.joinLot_defaultProfile (s : State) (l : LotId) (lot : List Byte) : (s.joinLot l lot).defaultProfile = s.defaultProfile := rfl
@[simp] theorem State.joinLot_identity (s : State) (l : LotId) (lot : List Byte) : (s.joinLot l lot).identity = s.identity := rfl
@[simp] theorem State.joinLot_page1 (s : State) (l : LotId) (lot : List Byte) : (s.joinLot l lot).page1 = s.page1 := rfl
@[simp] theorem State.joinLot_profilePages (s : State) (l : LotId) (lot : List Byte) : (s.joinLot l lot).profilePages = s.profilePages := rfl
@[simp] theorem State.joinLot_pageOp (s : State) (l : LotId) (lot : List Byte) : (s.joinLot l lot).pageOp = s.pageOp := rfl
@[simp] theorem State.joinLot_pending (s : State) (l : LotId) (lot : List Byte) : (s.joinLot l lot).pending = s.pending := rfl

/-! ### `endLot` changes lots and slots alone -/

@[simp] theorem State.endLot_map (s : State) (l : LotId) : (s.endLot l).map = s.map := rfl
@[simp] theorem State.endLot_bins (s : State) (l : LotId) : (s.endLot l).bins = s.bins := rfl
@[simp] theorem State.endLot_ports (s : State) (l : LotId) : (s.endLot l).ports = s.ports := rfl
@[simp] theorem State.endLot_lampTable (s : State) (l : LotId) : (s.endLot l).lampTable = s.lampTable := rfl
@[simp] theorem State.endLot_lamps (s : State) (l : LotId) : (s.endLot l).lamps = s.lamps := rfl
@[simp] theorem State.endLot_host (s : State) (l : LotId) : (s.endLot l).host = s.host := rfl
@[simp] theorem State.endLot_notices (s : State) (l : LotId) : (s.endLot l).notices = s.notices := rfl
@[simp] theorem State.endLot_overflow (s : State) (l : LotId) : (s.endLot l).overflow = s.overflow := rfl
@[simp] theorem State.endLot_alertEnable (s : State) (l : LotId) : (s.endLot l).alertEnable = s.alertEnable := rfl
@[simp] theorem State.endLot_defaultProfile (s : State) (l : LotId) : (s.endLot l).defaultProfile = s.defaultProfile := rfl
@[simp] theorem State.endLot_identity (s : State) (l : LotId) : (s.endLot l).identity = s.identity := rfl
@[simp] theorem State.endLot_page1 (s : State) (l : LotId) : (s.endLot l).page1 = s.page1 := rfl
@[simp] theorem State.endLot_profilePages (s : State) (l : LotId) : (s.endLot l).profilePages = s.profilePages := rfl
@[simp] theorem State.endLot_pageOp (s : State) (l : LotId) : (s.endLot l).pageOp = s.pageOp := rfl
@[simp] theorem State.endLot_pending (s : State) (l : LotId) : (s.endLot l).pending = s.pending := rfl

/-! ### `settleLamps` changes lamps alone -/

@[simp] theorem State.settleLamps_map (s : State) : (s.settleLamps).map = s.map := rfl
@[simp] theorem State.settleLamps_bins (s : State) : (s.settleLamps).bins = s.bins := rfl
@[simp] theorem State.settleLamps_slots (s : State) : (s.settleLamps).slots = s.slots := rfl
@[simp] theorem State.settleLamps_lots (s : State) : (s.settleLamps).lots = s.lots := rfl
@[simp] theorem State.settleLamps_ports (s : State) : (s.settleLamps).ports = s.ports := rfl
@[simp] theorem State.settleLamps_lampTable (s : State) : (s.settleLamps).lampTable = s.lampTable := rfl
@[simp] theorem State.settleLamps_host (s : State) : (s.settleLamps).host = s.host := rfl
@[simp] theorem State.settleLamps_notices (s : State) : (s.settleLamps).notices = s.notices := rfl
@[simp] theorem State.settleLamps_overflow (s : State) : (s.settleLamps).overflow = s.overflow := rfl
@[simp] theorem State.settleLamps_alertEnable (s : State) : (s.settleLamps).alertEnable = s.alertEnable := rfl
@[simp] theorem State.settleLamps_defaultProfile (s : State) : (s.settleLamps).defaultProfile = s.defaultProfile := rfl
@[simp] theorem State.settleLamps_identity (s : State) : (s.settleLamps).identity = s.identity := rfl
@[simp] theorem State.settleLamps_page1 (s : State) : (s.settleLamps).page1 = s.page1 := rfl
@[simp] theorem State.settleLamps_profilePages (s : State) : (s.settleLamps).profilePages = s.profilePages := rfl
@[simp] theorem State.settleLamps_pageOp (s : State) : (s.settleLamps).pageOp = s.pageOp := rfl
@[simp] theorem State.settleLamps_pending (s : State) : (s.settleLamps).pending = s.pending := rfl
@[simp] theorem State.settleLamps_port (s : State) (p : PortId) : s.settleLamps.port p = s.port p := rfl
@[simp] theorem State.settleLamps_waferAt (s : State) (i : SlotId) : s.settleLamps.waferAt i = s.waferAt i := rfl

/-- A lamp that shows its pattern already stays as it is, so a second derivation changes nothing. -/
theorem State.settleLamps_settleLamps (s : State) : s.settleLamps.settleLamps = s.settleLamps := by
  have h : ∀ (l : LampState) (x : Option Pattern), (l.show x).show x = l.show x := by
    intro l x
    have e : (l.show x).shown = x := by
      unfold LampState.show
      split
      · assumption
      · cases x <;> rfl
    rw [LampState.show, if_pos e]
  have hp : s.settleLamps.lampPattern = s.lampPattern := rfl
  rw [State.settleLamps, hp]
  simp only [State.settleLamps, h]

/-! ### `popHost` changes host alone -/

@[simp] theorem State.popHost_map (s : State) (rest : List Frame) : (s.popHost rest).map = s.map := rfl
@[simp] theorem State.popHost_bins (s : State) (rest : List Frame) : (s.popHost rest).bins = s.bins := rfl
@[simp] theorem State.popHost_slots (s : State) (rest : List Frame) : (s.popHost rest).slots = s.slots := rfl
@[simp] theorem State.popHost_lots (s : State) (rest : List Frame) : (s.popHost rest).lots = s.lots := rfl
@[simp] theorem State.popHost_ports (s : State) (rest : List Frame) : (s.popHost rest).ports = s.ports := rfl
@[simp] theorem State.popHost_lampTable (s : State) (rest : List Frame) : (s.popHost rest).lampTable = s.lampTable := rfl
@[simp] theorem State.popHost_lamps (s : State) (rest : List Frame) : (s.popHost rest).lamps = s.lamps := rfl
@[simp] theorem State.popHost_notices (s : State) (rest : List Frame) : (s.popHost rest).notices = s.notices := rfl
@[simp] theorem State.popHost_overflow (s : State) (rest : List Frame) : (s.popHost rest).overflow = s.overflow := rfl
@[simp] theorem State.popHost_alertEnable (s : State) (rest : List Frame) : (s.popHost rest).alertEnable = s.alertEnable := rfl
@[simp] theorem State.popHost_defaultProfile (s : State) (rest : List Frame) : (s.popHost rest).defaultProfile = s.defaultProfile := rfl
@[simp] theorem State.popHost_identity (s : State) (rest : List Frame) : (s.popHost rest).identity = s.identity := rfl
@[simp] theorem State.popHost_page1 (s : State) (rest : List Frame) : (s.popHost rest).page1 = s.page1 := rfl
@[simp] theorem State.popHost_profilePages (s : State) (rest : List Frame) : (s.popHost rest).profilePages = s.profilePages := rfl
@[simp] theorem State.popHost_pageOp (s : State) (rest : List Frame) : (s.popHost rest).pageOp = s.pageOp := rfl
@[simp] theorem State.popHost_pending (s : State) (rest : List Frame) : (s.popHost rest).pending = s.pending := rfl

/-! ### `compose` changes host alone -/

@[simp] theorem State.compose_map (s : State) (k : Byte) (bs : List Byte) : (s.compose k bs).map = s.map := rfl
@[simp] theorem State.compose_bins (s : State) (k : Byte) (bs : List Byte) : (s.compose k bs).bins = s.bins := rfl
@[simp] theorem State.compose_slots (s : State) (k : Byte) (bs : List Byte) : (s.compose k bs).slots = s.slots := rfl
@[simp] theorem State.compose_lots (s : State) (k : Byte) (bs : List Byte) : (s.compose k bs).lots = s.lots := rfl
@[simp] theorem State.compose_ports (s : State) (k : Byte) (bs : List Byte) : (s.compose k bs).ports = s.ports := rfl
@[simp] theorem State.compose_lampTable (s : State) (k : Byte) (bs : List Byte) : (s.compose k bs).lampTable = s.lampTable := rfl
@[simp] theorem State.compose_lamps (s : State) (k : Byte) (bs : List Byte) : (s.compose k bs).lamps = s.lamps := rfl
@[simp] theorem State.compose_notices (s : State) (k : Byte) (bs : List Byte) : (s.compose k bs).notices = s.notices := rfl
@[simp] theorem State.compose_overflow (s : State) (k : Byte) (bs : List Byte) : (s.compose k bs).overflow = s.overflow := rfl
@[simp] theorem State.compose_alertEnable (s : State) (k : Byte) (bs : List Byte) : (s.compose k bs).alertEnable = s.alertEnable := rfl
@[simp] theorem State.compose_defaultProfile (s : State) (k : Byte) (bs : List Byte) : (s.compose k bs).defaultProfile = s.defaultProfile := rfl
@[simp] theorem State.compose_identity (s : State) (k : Byte) (bs : List Byte) : (s.compose k bs).identity = s.identity := rfl
@[simp] theorem State.compose_page1 (s : State) (k : Byte) (bs : List Byte) : (s.compose k bs).page1 = s.page1 := rfl
@[simp] theorem State.compose_profilePages (s : State) (k : Byte) (bs : List Byte) : (s.compose k bs).profilePages = s.profilePages := rfl
@[simp] theorem State.compose_pageOp (s : State) (k : Byte) (bs : List Byte) : (s.compose k bs).pageOp = s.pageOp := rfl
@[simp] theorem State.compose_pending (s : State) (k : Byte) (bs : List Byte) : (s.compose k bs).pending = s.pending := rfl

/-! ### `notify` changes the notice queue and the overflow flag alone (R170) -/

@[simp] theorem State.notify_map (s : State) (n : Notice) : (s.notify n).map = s.map := by
  unfold State.notify; split <;> rfl
@[simp] theorem State.notify_bins (s : State) (n : Notice) : (s.notify n).bins = s.bins := by
  unfold State.notify; split <;> rfl
@[simp] theorem State.notify_slots (s : State) (n : Notice) : (s.notify n).slots = s.slots := by
  unfold State.notify; split <;> rfl
@[simp] theorem State.notify_lots (s : State) (n : Notice) : (s.notify n).lots = s.lots := by
  unfold State.notify; split <;> rfl
@[simp] theorem State.notify_ports (s : State) (n : Notice) : (s.notify n).ports = s.ports := by
  unfold State.notify; split <;> rfl
@[simp] theorem State.notify_lampTable (s : State) (n : Notice) : (s.notify n).lampTable = s.lampTable := by
  unfold State.notify; split <;> rfl
@[simp] theorem State.notify_lamps (s : State) (n : Notice) : (s.notify n).lamps = s.lamps := by
  unfold State.notify; split <;> rfl
@[simp] theorem State.notify_host (s : State) (n : Notice) : (s.notify n).host = s.host := by
  unfold State.notify; split <;> rfl
@[simp] theorem State.notify_alertEnable (s : State) (n : Notice) : (s.notify n).alertEnable = s.alertEnable := by
  unfold State.notify; split <;> rfl
@[simp] theorem State.notify_defaultProfile (s : State) (n : Notice) : (s.notify n).defaultProfile = s.defaultProfile := by
  unfold State.notify; split <;> rfl
@[simp] theorem State.notify_identity (s : State) (n : Notice) : (s.notify n).identity = s.identity := by
  unfold State.notify; split <;> rfl
@[simp] theorem State.notify_page1 (s : State) (n : Notice) : (s.notify n).page1 = s.page1 := by
  unfold State.notify; split <;> rfl
@[simp] theorem State.notify_profilePages (s : State) (n : Notice) : (s.notify n).profilePages = s.profilePages := by
  unfold State.notify; split <;> rfl
@[simp] theorem State.notify_pageOp (s : State) (n : Notice) : (s.notify n).pageOp = s.pageOp := by
  unfold State.notify; split <;> rfl
@[simp] theorem State.notify_pending (s : State) (n : Notice) : (s.notify n).pending = s.pending := by
  unfold State.notify; split <;> rfl

end Sys2Proof.Machine
end

