-- ==== Sys2Proof/Laws/Frames.lean ====
section
/-! SUPPORT. What the work on wafers leaves alone: every judgement, application, close, voiding and loss keeps
the settings, the page store, the host line, each port's line side, and where each wafer lies. -/
namespace Sys2Proof.Machine

/-- A port without its outbound queue, HELD state and touchdown list. -/
def Port.still (q : Port) : Port := { q with outbound := [], held := false, touchdowns := [] }

/-- What an occupied slot keeps from WAFER_OPEN on, but for its lot entry and its serial. -/
def Wafer.place (w : Wafer) : (List Byte × Byte) × (Nat × Nat) × (Nat × Nat) × Policy :=
  ((w.lotText, w.number), (w.rows, w.columns), (w.base, w.size), w.policy)

/-- The frame of the work on wafers. -/
structure State.WorkFrame (s t : State) : Prop where
  bins : t.bins = s.bins
  lampTable : t.lampTable = s.lampTable
  host : t.host = s.host
  alertEnable : t.alertEnable = s.alertEnable
  defaultProfile : t.defaultProfile = s.defaultProfile
  identity : t.identity = s.identity
  page1 : t.page1 = s.page1
  profilePages : t.profilePages = s.profilePages
  pageOp : t.pageOp = s.pageOp
  pending : t.pending = s.pending
  ports : ∀ p, (t.port p).still = (s.port p).still
  generation : ∀ i, (tabGet t.slots i).generation = (tabGet s.slots i).generation
  place : ∀ i, (t.waferAt i).map Wafer.place = (s.waferAt i).map Wafer.place

theorem State.WorkFrame.refl (s : State) : s.WorkFrame s :=
  ⟨rfl, rfl, rfl, rfl, rfl, rfl, rfl, rfl, rfl, rfl, fun _ => rfl, fun _ => rfl, fun _ => rfl⟩

theorem State.WorkFrame.trans {s t u : State} (h : s.WorkFrame t) (k : t.WorkFrame u) : s.WorkFrame u :=
  ⟨k.bins.trans h.bins, k.lampTable.trans h.lampTable, k.host.trans h.host,
    k.alertEnable.trans h.alertEnable, k.defaultProfile.trans h.defaultProfile, k.identity.trans h.identity,
    k.page1.trans h.page1, k.profilePages.trans h.profilePages, k.pageOp.trans h.pageOp,
    k.pending.trans h.pending, fun p => (k.ports p).trans (h.ports p),
    fun i => (k.generation i).trans (h.generation i), fun i => (k.place i).trans (h.place i)⟩

theorem State.WorkFrame.foldl {α : Type} {f : State → α → State} (hf : ∀ (s : State) x, s.WorkFrame (f s x))
    (xs : List α) :
    ∀ s : State, s.WorkFrame (xs.foldl f s) := by
  induction xs with
  | nil => exact fun s => .refl s
  | cons x xs ih => exact fun s => (hf s x).trans (ih (f s x))

/-! ### What follows from the frame -/

theorem State.WorkFrame.occupied {s t : State} (h : s.WorkFrame t) (i : SlotId) :
    (t.waferAt i).isSome = (s.waferAt i).isSome := by
  have := congrArg Option.isSome (h.place i)
  simpa using this

theorem State.WorkFrame.resolve {s t : State} (h : s.WorkFrame t) (x : Byte) : t.resolve x = s.resolve x := by
  unfold State.resolve
  split
  · next hi => simp only [h.occupied, h.generation]
  · rfl

theorem State.WorkFrame.handleOf {s t : State} (h : s.WorkFrame t) (i : SlotId) : t.handleOf i = s.handleOf i := by
  unfold State.handleOf
  rw [h.generation]

theorem State.WorkFrame.binClass {s t : State} (h : s.WorkFrame t) : t.binClass = s.binClass := by
  funext b
  unfold State.binClass
  rw [h.bins]

theorem State.WorkFrame.session {s t : State} (h : s.WorkFrame t) (p : PortId) :
    (t.port p).session = (s.port p).session := by
  have := congrArg Port.session (h.ports p)
  exact this

theorem State.WorkFrame.settings {s t : State} (h : s.WorkFrame t) (p : PortId) :
    (t.port p).settings = (s.port p).settings := by
  have := congrArg Port.settings (h.ports p)
  exact this

theorem State.WorkFrame.intake {s t : State} (h : s.WorkFrame t) (p : PortId) :
    (t.port p).intake = (s.port p).intake := by
  have := congrArg Port.intake (h.ports p)
  exact this

theorem State.WorkFrame.serial {s t : State} (h : s.WorkFrame t) (p : PortId) :
    (t.port p).serial = (s.port p).serial := by
  have := congrArg Port.serial (h.ports p)
  exact this

theorem State.WorkFrame.silence {s t : State} (h : s.WorkFrame t) (p : PortId) :
    (t.port p).silence = (s.port p).silence := by
  have := congrArg Port.silence (h.ports p)
  exact this

/-- The wafer that stands in a slot after the work, where one stood before. -/
theorem State.WorkFrame.waferAt {s t : State} (h : s.WorkFrame t) {i : SlotId} {w : Wafer}
    (hw : s.waferAt i = some w) : ∃ w', t.waferAt i = some w' ∧ w'.place = w.place := by
  have := h.place i
  rw [hw] at this
  cases ht : t.waferAt i with
  | none => simp [ht] at this
  | some w' => exact ⟨w', rfl, by simpa [ht] using this⟩

/-- The wafer that stood in a slot before the work, where one stands after. -/
theorem State.WorkFrame.waferAt_back {s t : State} (h : s.WorkFrame t) {i : SlotId} {w' : Wafer}
    (hw : t.waferAt i = some w') : ∃ w, s.waferAt i = some w ∧ w'.place = w.place := by
  have := h.place i
  rw [hw] at this
  cases hs : s.waferAt i with
  | none => simp [hs] at this
  | some w => exact ⟨w, rfl, by simpa [hs] using this⟩

/-! ### The plain updates, after any work -/

theorem State.WorkFrame.notify {s t : State} (h : s.WorkFrame t) (n : Notice) : s.WorkFrame (t.notify n) := by
  refine h.trans ?_
  unfold State.notify
  split <;> exact ⟨rfl, rfl, rfl, rfl, rfl, rfl, rfl, rfl, rfl, rfl, fun _ => rfl, fun _ => rfl, fun _ => rfl⟩

theorem State.WorkFrame.withPort {s t : State} (h : s.WorkFrame t) (p : PortId) (f : Port → Port)
    (hf : ∀ q, (f q).still = q.still := by intro _; rfl) : s.WorkFrame (t.withPort p f) := by
  refine h.trans ⟨rfl, rfl, rfl, rfl, rfl, rfl, rfl, rfl, rfl, rfl, fun q => ?_, fun _ => rfl, fun _ => rfl⟩
  rw [State.port_withPort]
  split
  · exact hf _
  · rfl

theorem State.WorkFrame.withWafer {s t : State} (h : s.WorkFrame t) (i : SlotId) (f : Wafer → Wafer)
    (hf : ∀ w, (f w).place = w.place := by intro _; rfl) : s.WorkFrame (t.withWafer i f) := by
  refine h.trans ⟨rfl, rfl, rfl, rfl, rfl, rfl, rfl, rfl, rfl, rfl, fun _ => rfl, fun j => by simp, fun j => ?_⟩
  rw [State.waferAt_withWafer]
  split
  · next e => rw [e, Option.map_map]; congr 1; funext w; exact hf w
  · rfl

theorem State.WorkFrame.withLots {s t : State} (h : s.WorkFrame t) (ls : Vector (Option Lot) 4) :
    s.WorkFrame { t with lots := ls } :=
  h.trans ⟨rfl, rfl, rfl, rfl, rfl, rfl, rfl, rfl, rfl, rfl, fun _ => rfl, fun _ => rfl, fun _ => rfl⟩

theorem State.WorkFrame.settleLamps {s t : State} (h : s.WorkFrame t) : s.WorkFrame t.settleLamps :=
  h.trans ⟨rfl, rfl, rfl, rfl, rfl, rfl, rfl, rfl, rfl, rfl, fun _ => rfl, fun _ => rfl, fun _ => rfl⟩

theorem State.WorkFrame.withMap {s t : State} (h : s.WorkFrame t) (m : List Host.Cell) :
    s.WorkFrame { t with map := m } :=
  h.trans ⟨rfl, rfl, rfl, rfl, rfl, rfl, rfl, rfl, rfl, rfl, fun _ => rfl, fun _ => rfl, fun _ => rfl⟩

theorem State.WorkFrame.queueOut {s t : State} (h : s.WorkFrame t) (p : PortId) (f : HeadOut) :
    s.WorkFrame (t.queueOut p f) := h.withPort p _

theorem State.WorkFrame.queueOutIfUp {s t : State} (h : s.WorkFrame t) (p : PortId) (f : HeadOut) :
    s.WorkFrame (t.queueOutIfUp p f) := by
  unfold State.queueOutIfUp
  split
  · exact h.queueOut p f
  · exact h

theorem State.WorkFrame.setTouchdowns {s t : State} (h : s.WorkFrame t) (p : PortId) (es : List Entry) :
    s.WorkFrame (t.setTouchdowns p es) := h.withPort p _

theorem State.WorkFrame.dropAssignAt {s t : State} (h : s.WorkFrame t) (p : Option PortId) (x : Byte) :
    s.WorkFrame (t.dropAssignAt p x) := by
  cases p with
  | none => exact h
  | some p => exact h.withPort p _

/-! ### HELD -/

theorem State.WorkFrame.judgeHeld {s t : State} (h : s.WorkFrame t) (p : PortId) (x : Byte) (src : Option Source) :
    s.WorkFrame (t.judgeHeld p x src) := by
  unfold State.judgeHeld
  split
  · exact h
  · refine .settleLamps ?_
    split
    · unfold State.holdPort
      exact .notify (.withPort (.queueOutIfUp h _ _) _ _) _
    · unfold State.freePort
      exact .notify (.withPort (.queueOutIfUp h _ _) _ _) _

theorem State.WorkFrame.judgeBound {s t : State} (h : s.WorkFrame t) (p : Option PortId) (x : Byte)
    (src : Option Source) : s.WorkFrame (t.judgeBound p x src) := by
  cases p with
  | none => exact h
  | some p => exact h.judgeHeld p x src

/-! ### Verdicts, windows and applications -/

theorem State.WorkFrame.alarmEffects {s t : State} (h : s.WorkFrame t) (i : SlotId) (p : Option PortId) (x : Byte)
    (src : Source) (e : AlarmEvent) : s.WorkFrame (t.alarmEffects i p x src e) := by
  cases e with
  | none => exact h
  | raised l =>
    cases l with
    | warn =>
      unfold State.alarmEffects
      exact .notify (.withWafer h _ _) _
    | hold =>
      unfold State.alarmEffects
      exact .judgeBound (.notify (.withWafer h _ _) _) _ _ _
  | escalated => exact (h.notify _).judgeBound p x _
  | cleared l => exact h.notify _

theorem State.WorkFrame.giveVerdict {s t : State} (h : s.WorkFrame t) (i : SlotId) (sv : Source × Verdict) :
    s.WorkFrame (t.giveVerdict i sv) := by
  unfold State.giveVerdict
  split
  · exact h
  · exact .settleLamps (.alarmEffects (.withWafer h _ _) _ _ _ _ _)

theorem State.WorkFrame.latch {s t : State} (h : s.WorkFrame t) (i : SlotId) : s.WorkFrame (t.latch i) := by
  unfold State.latch
  split
  · exact h
  · split
    · exact h
    · dsimp only
      split
      · exact .settleLamps (.judgeBound (.withWafer h _ _) _ _ _)
      · exact .settleLamps (.withWafer h _ _)

theorem State.WorkFrame.closeWindow {s t : State} (h : s.WorkFrame t) (i : SlotId) :
    s.WorkFrame (t.closeWindow i) := by
  unfold State.closeWindow
  split
  · exact h
  · exact .withWafer (.latch (h.trans (.foldl (fun u x => (State.WorkFrame.refl u).giveVerdict i x) _ t)) i) _ _

theorem State.WorkFrame.runDetect {s t : State} (h : s.WorkFrame t) (i : SlotId) : s.WorkFrame (t.runDetect i) := by
  unfold State.runDetect
  split
  · exact h.giveVerdict i _
  · exact h

theorem State.WorkFrame.closeIfFull {s t : State} (h : s.WorkFrame t) (i : SlotId) :
    s.WorkFrame (t.closeIfFull i) := by
  unfold State.closeIfFull
  split
  · exact h.closeWindow i
  · exact h

theorem State.WorkFrame.feedResult {s t : State} (h : s.WorkFrame t) (i : SlotId) (retest : Bool) (n : SiteId)
    (r : Bin) : s.WorkFrame (t.feedResult i retest n r) := by
  unfold State.feedResult
  exact .closeIfFull (.runDetect (.withWafer h _ _) _) _

theorem Wafer.place_retest (w : Wafer) (cls : Bin → BinClass) (b k : Bin) :
    (w.retest cls b k).place = w.place := by
  unfold Wafer.retest
  split
  · rfl
  · dsimp only
    split <;> rfl

theorem State.WorkFrame.applySite {s t : State} (h : s.WorkFrame t) (i : SlotId) (d : SiteEntry) :
    s.WorkFrame (t.applySite i d) := by
  unfold State.applySite
  split
  · exact h
  · split
    · exact .withWafer h _ _
    · split
      · exact .withWafer h _ _
      · dsimp only
        split
        · exact .feedResult (.withWafer (.withMap h _) _ _) _ _ _ _
        · split
          · exact .withWafer h _ _
          · exact .feedResult (.withWafer (.withMap h _) _ _ fun w => w.place_retest _ _ _) _ _ _ _

theorem State.WorkFrame.applySites {s t : State} (h : s.WorkFrame t) (i : SlotId) (ds : List SiteEntry) :
    s.WorkFrame (ds.foldl (State.applySite i) t) :=
  h.trans (.foldl (fun u d => (State.WorkFrame.refl u).applySite i d) ds t)

theorem State.WorkFrame.applyEntry {s t : State} (h : s.WorkFrame t) (e : Entry) : s.WorkFrame (t.applyEntry e) := by
  unfold State.applyEntry
  split
  · exact h
  · exact .withWafer (.applySites h _ _) _ _

/-! ### Closes, voiding and the loss of a head -/

theorem State.WorkFrame.rollUp {s t : State} (h : s.WorkFrame t) (w : Wafer) (p : Option PortId) (x : Byte) :
    s.WorkFrame (t.rollUp w p x) := by
  unfold State.rollUp
  split
  · exact h
  · split
    · exact h
    · dsimp only
      split
      · exact h.withLots _
      · split
        · exact (h.withLots _).notify _
        · exact h.withLots _

theorem State.WorkFrame.countAbandoned {s t : State} (h : s.WorkFrame t) (w : Wafer) :
    s.WorkFrame (t.countAbandoned w) := by
  unfold State.countAbandoned
  split
  · exact h
  · exact h.withLots _

theorem State.WorkFrame.enterClosed {s t : State} (h : s.WorkFrame t) (i : SlotId) (c : CloseCause) :
    s.WorkFrame (t.enterClosed i c) := by
  unfold State.enterClosed
  split
  · exact h
  · exact .settleLamps (.judgeBound (.rollUp (.notify (.dropAssignAt (.withWafer h _ _) _ _) _) _ _ _) _ _ _)

theorem State.WorkFrame.enterAbandoned {s t : State} (h : s.WorkFrame t) (i : SlotId) :
    s.WorkFrame (t.enterAbandoned i) := by
  unfold State.enterAbandoned
  split
  · exact h
  · exact .settleLamps (.judgeBound (.countAbandoned (.dropAssignAt (.withWafer h _ _) _ _) _) _ _ _)

theorem State.WorkFrame.drainClose {s t : State} (h : s.WorkFrame t) (x : Byte) (rest : List Entry) :
    s.WorkFrame (t.drainClose x rest) := by
  unfold State.drainClose
  split
  · exact h
  · split
    · exact h
    · split
      · exact h.enterClosed _ _
      · exact h

theorem State.WorkFrame.pass (p : PortId) (es : List Entry) :
    ∀ {s t : State}, s.WorkFrame t → s.WorkFrame (t.pass p es) := by
  induction es with
  | nil => exact fun h => h
  | cons e rest ih =>
    intro s t h
    unfold State.pass
    split
    · exact ih (((h.applyEntry e).setTouchdowns p rest).drainClose _ _)
    · exact h

theorem State.WorkFrame.runPass {s t : State} (h : s.WorkFrame t) (p : PortId) : s.WorkFrame (t.runPass p) :=
  .pass p _ h

theorem State.WorkFrame.countVoided {s t : State} (h : s.WorkFrame t) (e : Entry) :
    s.WorkFrame (t.countVoided e) := by
  unfold State.countVoided
  split
  · exact .withWafer h _ _
  · exact h

theorem State.WorkFrame.voidAll {s t : State} (h : s.WorkFrame t) (p : PortId) : s.WorkFrame (t.voidAll p) :=
  .setTouchdowns (h.trans (.foldl (fun u e => (State.WorkFrame.refl u).countVoided e) _ t)) _ _

theorem State.WorkFrame.voidWafer {s t : State} (h : s.WorkFrame t) (p : PortId) (i : SlotId) (x : Byte) :
    s.WorkFrame (t.voidWafer p i x) := by
  unfold State.voidWafer
  dsimp only
  split
  · exact .runPass (.setTouchdowns (.withWafer h _ _) _ _) _
  · exact .setTouchdowns (.withWafer h _ _) _ _

theorem State.WorkFrame.endTouchdowns {s t : State} (h : s.WorkFrame t) (i : SlotId) (w : Wafer) (x : Byte) :
    s.WorkFrame (t.endTouchdowns i w x) := by
  unfold State.endTouchdowns
  split
  · exact (h.voidWafer _ i x).queueOutIfUp _ _
  · exact h

theorem State.WorkFrame.closeIfDraining {s t : State} (h : s.WorkFrame t) (p : PortId) (i : SlotId) :
    s.WorkFrame (t.closeIfDraining p i) := by
  unfold State.closeIfDraining
  split
  · split
    · exact h.enterClosed i _
    · exact h
  · exact h

theorem State.WorkFrame.suspendIfActive {s t : State} (h : s.WorkFrame t) (p : PortId) (i : SlotId) :
    s.WorkFrame (t.suspendIfActive p i) := by
  unfold State.suspendIfActive
  split
  · split
    · exact .notify (.withWafer h _ _) _
    · exact h
  · exact h

/-- Steps 1 and 2 of a loss (R158). -/
theorem State.WorkFrame.lossSteps {s t : State} (h : s.WorkFrame t) (p : PortId) :
    s.WorkFrame (slotIds.foldl (State.suspendIfActive p) (slotIds.foldl (State.closeIfDraining p) (t.voidAll p))) :=
  ((h.voidAll p).trans (.foldl (fun u i => (State.WorkFrame.refl u).closeIfDraining p i) slotIds _)).trans
    (.foldl (fun u i => (State.WorkFrame.refl u).suspendIfActive p i) slotIds _)

end Sys2Proof.Machine
end

