-- ==== Sys2Proof/Laws/Held.lean ====
section
/-! SUPPORT. HELD through every operation: which records hold a port, and how a judgement sets HELD right. -/
namespace Sys2Proof.Machine

/-- The wafer holds the port. -/
def Wafer.pins (w : Wafer) (p : PortId) : Bool := w.boundTo p && w.holds

theorem State.heldBy_iff (s : State) (p : PortId) :
    s.heldBy p = true ↔ ∃ i w, s.waferAt i = some w ∧ w.pins p = true := by
  unfold State.heldBy
  rw [tabList_any]
  refine exists_congr fun i => ?_
  unfold State.waferAt
  cases (tabGet s.slots i).wafer with
  | none => simp
  | some w => simp [Wafer.pins]

theorem Wafer.holds_iff (w : Wafer) : w.holds = true ↔ ∃ src, (tabGet w.alarms src).holds = true := by
  unfold Wafer.holds
  exact tabList_any _ _

/-- HELD is as the records say at every port but perhaps one. -/
def State.HeldBut (s : State) (x : Option PortId) : Prop := ∀ q, some q ≠ x → (s.port q).held = s.heldBy q

theorem State.heldLaw_iff (s : State) : s.HeldLaw ↔ s.HeldBut none := by
  unfold State.HeldLaw State.HeldBut
  refine forall_congr' fun p => ?_
  have key : (s.port p).held = s.heldBy p ↔ ((s.port p).held = true ↔ s.heldBy p = true) := Bool.eq_iff_iff
  rw [key, State.heldBy_iff]
  constructor
  · intro h _
    rw [h]
    refine exists_congr fun i => exists_congr fun w => ?_
    unfold Wafer.pins
    rw [Bool.and_eq_true, Wafer.holds_iff]
    constructor
    · rintro ⟨src, h1, h2, h3⟩; exact ⟨h1, h2, src, h3⟩
    · rintro ⟨h1, h2, src, h3⟩; exact ⟨src, h1, h2, h3⟩
  · intro h
    rw [h (by simp)]
    refine exists_congr fun i => exists_congr fun w => ?_
    unfold Wafer.pins
    rw [Bool.and_eq_true, Wafer.holds_iff]
    constructor
    · rintro ⟨h1, h2, src, h3⟩; exact ⟨src, h1, h2, h3⟩
    · rintro ⟨src, h1, h2, h3⟩; exact ⟨h1, h2, src, h3⟩

theorem State.HeldBut.weaken {s : State} (h : s.HeldBut none) (x : Option PortId) : s.HeldBut x :=
  fun q _ => h q (by simp)

/-- Two states with the same records holding the same ports. -/
theorem State.heldBy_congr {s t : State} {p : PortId}
    (h : ∀ i, (t.waferAt i).any (fun w => w.pins p) = (s.waferAt i).any (fun w => w.pins p)) :
    t.heldBy p = s.heldBy p := by
  rw [Bool.eq_iff_iff, State.heldBy_iff, State.heldBy_iff]
  refine exists_congr fun i => ?_
  have := h i
  cases ht : t.waferAt i <;> cases hs : s.waferAt i <;> simp_all

theorem State.heldBy_slots {s t : State} (h : t.slots = s.slots) (p : PortId) : t.heldBy p = s.heldBy p := by
  unfold State.heldBy
  rw [h]

/-- An update that touches neither HELD nor the slots. -/
theorem State.HeldBut.same {s t : State} {x : Option PortId} (h : s.HeldBut x) (hs : t.slots = s.slots)
    (hp : ∀ q, (t.port q).held = (s.port q).held) : t.HeldBut x := fun q hq => by
  rw [hp, State.heldBy_slots hs, h q hq]

theorem State.HeldBut.notify {s : State} {x : Option PortId} (h : s.HeldBut x) (n : Notice) :
    (s.notify n).HeldBut x := h.same (by simp) fun q => by unfold State.port; simp

theorem State.HeldBut.settleLamps {s : State} {x : Option PortId} (h : s.HeldBut x) : s.settleLamps.HeldBut x :=
  h.same rfl fun _ => rfl

theorem State.HeldBut.withPort {s : State} {x : Option PortId} (h : s.HeldBut x) (p : PortId) (f : Port → Port)
    (hf : ∀ q, (f q).held = q.held := by intro _; rfl) : (s.withPort p f).HeldBut x :=
  h.same rfl fun q => by
    rw [State.port_withPort]
    split
    · next e => subst e; exact hf _
    · rfl

theorem State.HeldBut.queueOut {s : State} {x : Option PortId} (h : s.HeldBut x) (p : PortId) (f : HeadOut) :
    (s.queueOut p f).HeldBut x := h.withPort p _

theorem State.HeldBut.queueOutIfUp {s : State} {x : Option PortId} (h : s.HeldBut x) (p : PortId) (f : HeadOut) :
    (s.queueOutIfUp p f).HeldBut x := by
  unfold State.queueOutIfUp
  split
  · exact h.queueOut p f
  · exact h

theorem State.HeldBut.dropAssignAt {s : State} {x : Option PortId} (h : s.HeldBut x) (p : Option PortId) (b : Byte) :
    (s.dropAssignAt p b).HeldBut x := by
  cases p with
  | none => exact h
  | some p => exact h.withPort p _

/-! ### A judgement sets HELD right (R121 to R123) -/

theorem State.slots_judgeHeld (s : State) (p : PortId) (b : Byte) (src : Option Source) :
    (s.judgeHeld p b src).slots = s.slots := by
  unfold State.judgeHeld State.holdPort State.freePort State.queueOutIfUp State.queueOut
  split
  · rfl
  · split <;> split <;> simp

theorem State.held_judgeHeld (s : State) (p q : PortId) (b : Byte) (src : Option Source) :
    ((s.judgeHeld p b src).port q).held = if q = p then s.heldBy p else (s.port q).held := by
  unfold State.judgeHeld
  split
  · next h => split
              · next e => rw [e, h]
              · rfl
  · have key : ∀ (f : HeadOut) (v : Bool) (n : Notice),
        ((((s.queueOutIfUp p f).withPort p fun q => { q with held := v }).notify n).port q).held =
          if q = p then v else (s.port q).held := by
      intro f v n
      have : (((s.queueOutIfUp p f).withPort p fun q => { q with held := v }).notify n).port q =
          ((s.queueOutIfUp p f).withPort p fun q => { q with held := v }).port q := by
        unfold State.port; simp
      rw [this, State.port_withPort]
      split
      · rfl
      · unfold State.queueOutIfUp State.queueOut
        split
        · next e _ => simp [e]
        · rfl
    rw [State.settleLamps_port]
    split
    · next h => unfold State.holdPort; rw [key, h]
    · next h => unfold State.freePort; rw [key]; simp at h; rw [h]

theorem State.HeldBut.judgeHeld {s : State} {p : PortId} (h : s.HeldBut (some p)) (b : Byte) (src : Option Source) :
    (s.judgeHeld p b src).HeldBut none := fun q _ => by
  rw [State.held_judgeHeld, State.heldBy_slots (s.slots_judgeHeld p b src)]
  split
  · next e => rw [e]
  · next e => exact h q (by simpa using e)

theorem State.HeldBut.judgeBound {s : State} {p : Option PortId} (h : s.HeldBut p) (b : Byte) (src : Option Source) :
    (s.judgeBound p b src).HeldBut none := by
  cases p with
  | none => exact h
  | some p => exact h.judgeHeld b src

/-! ### Changing one wafer's record -/

theorem State.heldBy_withWafer {s : State} {i : SlotId} {f : Wafer → Wafer} {p : PortId}
    (hf : ∀ w, s.waferAt i = some w → (f w).pins p = w.pins p) : (s.withWafer i f).heldBy p = s.heldBy p := by
  refine State.heldBy_congr fun j => ?_
  rw [State.waferAt_withWafer]
  split
  · next e =>
    subst e
    cases hw : s.waferAt j with
    | none => rfl
    | some w => simpa using hf w hw
  · rfl

/-- A change of a record that keeps what holds. -/
theorem State.HeldBut.withWafer {s : State} {x : Option PortId} (h : s.HeldBut x) (i : SlotId) (f : Wafer → Wafer)
    (hf : ∀ w p, (f w).pins p = w.pins p := by intro _ _; rfl) : (s.withWafer i f).HeldBut x := fun q hq => by
  rw [State.heldBy_withWafer fun w _ => hf w q]
  exact h q hq

/-- A change of a record that keeps the binding leaves HELD right at every other port. -/
theorem State.HeldBut.withWaferBut {s : State} (h : s.HeldBut none) (i : SlotId) (f : Wafer → Wafer) {w : Wafer}
    (hw : s.waferAt i = some w) (hb : ∀ p, some p ≠ w.boundPort → (f w).pins p = false) :
    (s.withWafer i f).HeldBut w.boundPort := fun q hq => by
  rw [State.heldBy_withWafer fun w' hw' => ?_]
  · exact h q (by simp)
  · rw [hw] at hw'
    cases hw'
    rw [hb q hq]
    have : ¬ w.boundPort = some q := fun e => hq e.symm
    simp [Wafer.pins, Wafer.boundTo, this]

theorem Wafer.pins_eq_false {w : Wafer} {p : PortId} (h : some p ≠ w.boundPort) : w.pins p = false := by
  have : ¬ w.boundPort = some p := fun e => h e.symm
  simp [Wafer.pins, Wafer.boundTo, this]

/-! ### Verdicts -/

/-- A record begins to hold its head only by a raise to HOLD or an escalation, and stops by no verdict
(R112 to R115). -/
theorem alarmStep_holds (rd cd : Nat) (a : Alarm) (v : Verdict) (h1 : (alarmStep rd cd a v).2 ≠ .raised .hold)
    (h2 : (alarmStep rd cd a v).2 ≠ .escalated) : (alarmStep rd cd a v).1.holds = a.holds := by
  obtain ⟨st, lv, ack, n⟩ := a
  revert h1 h2
  cases st <;> cases v <;> rcases lv with _ | l <;> (try cases l) <;> cases ack <;>
    simp only [alarmStep, settleRaise, settleClear, Alarm.holds, Alarm.cleared, Alarm.raisedWarn, Alarm.raisedHold,
      Alarm.raisedAt, if_true, if_false, reduceCtorEq, Bool.false_eq_true, Option.some.injEq] <;>
    (repeat' split) <;> first | rfl | (simp; done) | (simp; rfl)

theorem Wafer.holds_setAlarm (w : Wafer) (src : Source) (a : Alarm) (h : a.holds = (tabGet w.alarms src).holds) :
    (w.setAlarm src a).holds = w.holds := by
  unfold Wafer.setAlarm
  rw [Bool.eq_iff_iff, Wafer.holds_iff, Wafer.holds_iff]
  refine exists_congr fun j => ?_
  rw [tabGet_tabSet]
  split
  · next e => rw [e, h]
  · rfl

theorem State.HeldBut.giveVerdict {s : State} (h : s.HeldBut none) (i : SlotId) (sv : Source × Verdict) :
    (s.giveVerdict i sv).HeldBut none := by
  unfold State.giveVerdict
  split
  · exact h
  · next w hw =>
    refine .settleLamps ?_
    have hbut : (s.withWafer i fun w' => w'.setAlarm sv.1 (alarmStep (raiseDebounceOf w.active sv.1)
        w.active.clearDebounce (tabGet w.alarms sv.1) sv.2).1).HeldBut w.boundPort :=
      h.withWaferBut i _ hw fun p hp => Wafer.pins_eq_false (by exact hp)
    have hall : (alarmStep (raiseDebounceOf w.active sv.1) w.active.clearDebounce (tabGet w.alarms sv.1) sv.2).1.holds
        = (tabGet w.alarms sv.1).holds → (s.withWafer i fun w' => w'.setAlarm sv.1 (alarmStep
        (raiseDebounceOf w.active sv.1) w.active.clearDebounce (tabGet w.alarms sv.1) sv.2).1).HeldBut none :=
      fun e q _ => by
      rw [State.heldBy_withWafer fun w' hw' => ?_]
      · exact h q (by simp)
      · rw [hw] at hw'
        cases hw'
        unfold Wafer.pins
        rw [Wafer.holds_setAlarm _ _ _ e]
        rfl
    have hh := alarmStep_holds (raiseDebounceOf w.active sv.1) w.active.clearDebounce (tabGet w.alarms sv.1) sv.2
    generalize alarmStep (raiseDebounceOf w.active sv.1) w.active.clearDebounce (tabGet w.alarms sv.1) sv.2 = r at *
    obtain ⟨a, e⟩ := r
    dsimp only at *
    cases e with
    | none => exact hall (hh (by simp) (by simp))
    | raised l =>
      cases l with
      | warn =>
        unfold State.alarmEffects
        exact .notify (.withWafer (hall (hh (by simp) (by simp))) _ _) _
      | hold =>
        unfold State.alarmEffects
        exact .judgeBound (.notify (.withWafer hbut _ _) _) _ _
    | escalated =>
      unfold State.alarmEffects
      exact .judgeBound (.notify hbut _) _ _
    | cleared l =>
      unfold State.alarmEffects
      exact .notify (hall (hh (by simp) (by simp))) _

theorem State.HeldBut.giveVerdicts {i : SlotId} (vs : List (Source × Verdict)) :
    ∀ {s : State}, s.HeldBut none → (vs.foldl (State.giveVerdict i) s).HeldBut none := by
  induction vs with
  | nil => exact fun h => h
  | cons v vs ih => exact fun h => ih (h.giveVerdict i v)

/-! ### Latches and windows -/

theorem tabGet_clearBins (js : List (Fin 8)) (src : Source) : ∀ v : Vector Alarm 26,
    tabGet (js.foldl (fun v i => tabSet v (binSource i) Alarm.cleared) v) src =
      if js.any (fun j => src = binSource j) then Alarm.cleared else tabGet v src := by
  induction js with
  | nil => intro v; rfl
  | cons j js ih =>
    intro v
    rw [List.foldl_cons, ih, tabGet_tabSet, List.any_cons]
    by_cases h1 : js.any (fun j => decide (src = binSource j)) = true
    · simp [h1]
    · by_cases h2 : src = binSource j <;> simp [h2]

theorem Wafer.holds_clearSurplus {w : Wafer} {n : Nat}
    (h : ((surplusBins n).any fun j => (tabGet w.alarms (binSource j)).holds) = false) :
    (w.clearSurplus n).holds = w.holds := by
  rw [Bool.eq_iff_iff, Wafer.holds_iff, Wafer.holds_iff]
  refine exists_congr fun src => ?_
  unfold Wafer.clearSurplus
  dsimp only
  rw [tabGet_clearBins]
  split
  · next hc =>
    obtain ⟨j, hj, e⟩ := List.any_eq_true.mp hc
    have := (List.any_eq_false.mp h) j hj
    simp only [decide_eq_true_eq] at e
    rw [e, Bool.eq_false_iff.mpr this]
    exact iff_of_false (by decide) (by simp)
  · rfl

theorem State.HeldBut.latch {s : State} (h : s.HeldBut none) (i : SlotId) : (s.latch i).HeldBut none := by
  unfold State.latch
  split
  · exact h
  · next w hw =>
    split
    · exact h
    · next st _ =>
      dsimp only
      split
      · refine .settleLamps (.judgeBound (h.withWaferBut i _ hw fun p hp => Wafer.pins_eq_false ?_) _ _)
        simpa [Wafer.clearSurplus] using hp
      · next hc =>
        refine .settleLamps fun q _ => ?_
        rw [State.heldBy_withWafer fun w' hw' => ?_]
        · exact h q (by simp)
        · rw [hw] at hw'
          cases hw'
          have := Wafer.holds_clearSurplus (w := w) (n := st.profile.watched.length) (by simpa using hc)
          unfold Wafer.pins
          show (_ && (w.clearSurplus st.profile.watched.length).holds) = _
          rw [this]
          rfl

theorem State.HeldBut.closeWindow {s : State} (h : s.HeldBut none) (i : SlotId) :
    (s.closeWindow i).HeldBut none := by
  unfold State.closeWindow
  split
  · exact h
  · exact .withWafer (.latch (.giveVerdicts _ h) _) _ _

theorem State.HeldBut.runDetect {s : State} (h : s.HeldBut none) (i : SlotId) : (s.runDetect i).HeldBut none := by
  unfold State.runDetect
  split
  · exact h.giveVerdict i _
  · exact h

theorem State.HeldBut.closeIfFull {s : State} (h : s.HeldBut none) (i : SlotId) :
    (s.closeIfFull i).HeldBut none := by
  unfold State.closeIfFull
  split
  · exact h.closeWindow i
  · exact h

theorem State.HeldBut.feedResult {s : State} (h : s.HeldBut none) (i : SlotId) (retest : Bool) (n : SiteId)
    (r : Bin) : (s.feedResult i retest n r).HeldBut none := by
  unfold State.feedResult
  exact .closeIfFull (.runDetect (.withWafer h _ _) _) _

theorem Wafer.pins_retest (w : Wafer) (cls : Bin → BinClass) (b k : Bin) (p : PortId) :
    (w.retest cls b k).pins p = w.pins p := by
  unfold Wafer.retest
  split
  · rfl
  · dsimp only
    split <;> rfl

theorem State.HeldBut.withMap {s : State} {x : Option PortId} (h : s.HeldBut x) (m : List Host.Cell) :
    State.HeldBut { s with map := m } x := h

theorem State.HeldBut.applySite {s : State} (h : s.HeldBut none) (i : SlotId) (d : SiteEntry) :
    (s.applySite i d).HeldBut none := by
  unfold State.applySite
  split
  · exact h
  · split
    · exact .withWafer h _ _
    · split
      · exact .withWafer h _ _
      · dsimp only
        split
        · exact .feedResult (.withWafer (.withMap h _) _ _) _ _ _ _
        · split
          · exact .withWafer h _ _
          · exact .feedResult (.withWafer (.withMap h _) _ _ fun w p => w.pins_retest _ _ _ p) _ _ _ _

theorem State.HeldBut.applySites {i : SlotId} (ds : List SiteEntry) :
    ∀ {s : State}, s.HeldBut none → (ds.foldl (State.applySite i) s).HeldBut none := by
  induction ds with
  | nil => exact fun h => h
  | cons d ds ih => exact fun h => ih (h.applySite i d)

theorem State.HeldBut.applyEntry {s : State} (h : s.HeldBut none) (e : Entry) : (s.applyEntry e).HeldBut none := by
  unfold State.applyEntry
  split
  · exact h
  · exact .withWafer (.applySites _ h) _ _

/-! ### Closes, voiding and the loss of a head -/

theorem State.slots_rollUp (s : State) (w : Wafer) (p : Option PortId) (b : Byte) :
    (s.rollUp w p b).slots = s.slots := by
  unfold State.rollUp
  split
  · rfl
  · split
    · rfl
    · dsimp only
      split
      · rfl
      · split
        · rw [State.notify_slots]
        · rfl

theorem State.ports_rollUp (s : State) (w : Wafer) (p : Option PortId) (b : Byte) :
    (s.rollUp w p b).ports = s.ports := by
  unfold State.rollUp
  split
  · rfl
  · split
    · rfl
    · dsimp only
      split
      · rfl
      · split
        · rw [State.notify_ports]
        · rfl

theorem State.HeldBut.rollUp {s : State} {x : Option PortId} (h : s.HeldBut x) (w : Wafer) (p : Option PortId)
    (b : Byte) : (s.rollUp w p b).HeldBut x :=
  h.same (s.slots_rollUp w p b) fun q => by unfold State.port; rw [State.ports_rollUp]

theorem State.HeldBut.countAbandoned {s : State} {x : Option PortId} (h : s.HeldBut x) (w : Wafer) :
    (s.countAbandoned w).HeldBut x := by
  unfold State.countAbandoned
  split <;> exact h

theorem State.HeldBut.enterClosed {s : State} (h : s.HeldBut none) (i : SlotId) (c : CloseCause) :
    (s.enterClosed i c).HeldBut none := by
  unfold State.enterClosed
  split
  · exact h
  · next w hw =>
    exact .settleLamps
      (.judgeBound (.rollUp (.notify (.dropAssignAt (h.withWaferBut i _ hw fun p _ => rfl) _ _) _) _ _ _) _ _)

theorem State.HeldBut.enterAbandoned {s : State} (h : s.HeldBut none) (i : SlotId) :
    (s.enterAbandoned i).HeldBut none := by
  unfold State.enterAbandoned
  split
  · exact h
  · next w hw =>
    exact .settleLamps (.judgeBound (.countAbandoned (.dropAssignAt (h.withWaferBut i _ hw fun p _ => rfl) _ _) _) _ _)

theorem State.HeldBut.setTouchdowns {s : State} {x : Option PortId} (h : s.HeldBut x) (p : PortId) (es : List Entry) :
    (s.setTouchdowns p es).HeldBut x := h.withPort p _

theorem State.HeldBut.drainClose {s : State} (h : s.HeldBut none) (b : Byte) (rest : List Entry) :
    (s.drainClose b rest).HeldBut none := by
  unfold State.drainClose
  split
  · exact h
  · split
    · exact h
    · split
      · exact h.enterClosed _ _
      · exact h

theorem State.HeldBut.pass (p : PortId) (es : List Entry) :
    ∀ {s : State}, s.HeldBut none → (s.pass p es).HeldBut none := by
  induction es with
  | nil => exact fun h => h
  | cons e rest ih =>
    intro s h
    unfold State.pass
    split
    · exact ih (((h.applyEntry e).setTouchdowns p rest).drainClose _ _)
    · exact h

theorem State.HeldBut.countVoided {s : State} (h : s.HeldBut none) (e : Entry) : (s.countVoided e).HeldBut none := by
  unfold State.countVoided
  split
  · exact .withWafer h _ _
  · exact h

theorem State.HeldBut.voidAll {s : State} (h : s.HeldBut none) (p : PortId) : (s.voidAll p).HeldBut none := by
  unfold State.voidAll
  refine .setTouchdowns ?_ _ _
  generalize (s.port p).touchdowns = es
  induction es generalizing s with
  | nil => exact h
  | cons e es ih => exact ih (h.countVoided e)

theorem State.HeldBut.voidWafer {s : State} (h : s.HeldBut none) (p : PortId) (i : SlotId) (b : Byte) :
    (s.voidWafer p i b).HeldBut none := by
  unfold State.voidWafer
  dsimp only
  split
  · exact .pass _ _ (.setTouchdowns (.withWafer h _ _) _ _)
  · exact .setTouchdowns (.withWafer h _ _) _ _

theorem State.HeldBut.endTouchdowns {s : State} (h : s.HeldBut none) (i : SlotId) (w : Wafer) (b : Byte) :
    (s.endTouchdowns i w b).HeldBut none := by
  unfold State.endTouchdowns
  split
  · exact (h.voidWafer _ i b).queueOutIfUp _ _
  · exact h

theorem State.HeldBut.closeIfDraining {s : State} (h : s.HeldBut none) (p : PortId) (i : SlotId) :
    (s.closeIfDraining p i).HeldBut none := by
  unfold State.closeIfDraining
  split
  · split
    · exact h.enterClosed i _
    · exact h
  · exact h

theorem State.HeldBut.suspendIfActive {s : State} (h : s.HeldBut none) (p : PortId) (i : SlotId) :
    (s.suspendIfActive p i).HeldBut none := by
  unfold State.suspendIfActive
  split
  · next w hw =>
    split
    · next hc =>
      refine .notify (fun q hq => ?_) _
      rw [State.heldBy_withWafer fun w' hw' => ?_]
      · exact h q hq
      · rw [hw] at hw'
        cases hw'
        simp [Wafer.pins, Wafer.boundTo, hc.1, WaferState.isBound, Wafer.holds]
    · exact h
  · exact h

theorem State.HeldBut.lose {s : State} (h : s.HeldBut none) (p : PortId) (c : LossCause) :
    (s.lose p c).HeldBut none := by
  have h2 : (slotIds.foldl (State.closeIfDraining p) (s.voidAll p)).HeldBut none := by
    have := h.voidAll p
    generalize s.voidAll p = t at *
    generalize slotIds = is
    induction is generalizing t with
    | nil => exact this
    | cons i is ih => exact ih _ (this.closeIfDraining p i)
  have h3 : (slotIds.foldl (State.suspendIfActive p) (slotIds.foldl (State.closeIfDraining p) (s.voidAll p))).HeldBut
      none := by
    generalize slotIds.foldl (State.closeIfDraining p) (s.voidAll p) = t at *
    generalize slotIds = is
    induction is generalizing t with
    | nil => exact h2
    | cons i is ih => exact ih _ (h2.suspendIfActive p i)
  unfold State.lose
  exact .settleLamps (.notify (.withPort h3 _ _ fun q => by cases c <;> rfl) _)

end Sys2Proof.Machine
end

