-- ==== Sys2Proof/Laws/Memory.lean ====
section
/-! SUPPORT. The map store: its canonical form under every operation, and reading after writing. -/
namespace Sys2Proof.Machine

theorem mapWf_nil : mapWf [] := ⟨List.Pairwise.nil, fun _ h => nomatch h⟩

theorem mapWf_tail {c : Host.Cell} {m : List Host.Cell} (h : mapWf (c :: m)) : mapWf m :=
  ⟨(List.pairwise_cons.mp h.1).2, fun d hd => h.2 d (List.mem_cons_of_mem _ hd)⟩

/-- Writing lists no address but the one written. -/
theorem mem_mapWrite {a : Nat} {v : Byte} {m : List Host.Cell} {d : Host.Cell} (h : d ∈ mapWrite a v m) :
    d = (a, v) ∧ v ≠ 0 ∨ d ∈ m := by
  induction m with
  | nil =>
    unfold mapWrite at h
    split at h
    · exact nomatch h
    · next hv => exact .inl ⟨by simpa using h, hv⟩
  | cons c m ih =>
    unfold mapWrite at h
    split at h
    · split at h
      · exact .inr h
      · next hv =>
        rcases List.mem_cons.mp h with h | h
        · exact .inl ⟨h, hv⟩
        · exact .inr h
    · split at h
      · split at h
        · exact .inr (List.mem_cons_of_mem _ h)
        · next hv =>
          rcases List.mem_cons.mp h with h | h
          · exact .inl ⟨h, hv⟩
          · exact .inr (List.mem_cons_of_mem _ h)
      · rcases List.mem_cons.mp h with h | h
        · exact .inr (h ▸ List.mem_cons_self)
        · rcases ih h with h | h
          · exact .inl h
          · exact .inr (List.mem_cons_of_mem _ h)

/-- Writing a cell of the store keeps the canonical form. -/
theorem mapWf_mapWrite {a : Nat} {v : Byte} {m : List Host.Cell} (ha : a < storeCells) (h : mapWf m) :
    mapWf (mapWrite a v m) := by
  refine ⟨?_, fun d hd => ?_⟩
  · induction m with
    | nil => unfold mapWrite; split <;> simp
    | cons c m ih =>
      have hc := List.pairwise_cons.mp h.1
      unfold mapWrite
      split
      · next lt =>
        split
        · exact h.1
        · refine List.pairwise_cons.mpr ⟨fun d hd => ?_, h.1⟩
          rcases List.mem_cons.mp hd with hd | hd
          · exact hd ▸ lt
          · exact Nat.lt_trans lt (hc.1 d hd)
      · next nlt =>
        split
        · next e =>
          split
          · exact hc.2
          · exact List.pairwise_cons.mpr ⟨fun d hd => e ▸ hc.1 d hd, hc.2⟩
        · next ne =>
          refine List.pairwise_cons.mpr ⟨fun d hd => ?_, ih (mapWf_tail h)⟩
          rcases mem_mapWrite hd with hd | hd
          · rw [hd.1]; show c.1 < a; omega
          · exact hc.1 d hd
  · rcases mem_mapWrite hd with ⟨hd, hv⟩ | hd
    · exact ⟨hd ▸ ha, hd ▸ hv⟩
    · exact h.2 d hd

/-- Clearing a span keeps the canonical form (R9). -/
theorem mapWf_mapClear {m : List Host.Cell} (base size : Nat) (h : mapWf m) : mapWf (mapClear base size m) :=
  ⟨h.1.filter _, fun c hc => h.2 c (List.mem_filter.mp hc).1⟩

theorem mapRead_of_lt {a : Nat} {m : List Host.Cell} (h : ∀ c ∈ m, a < c.1) : mapRead a m = 0 := by
  induction m with
  | nil => rfl
  | cons c m ih =>
    have := h c List.mem_cons_self
    unfold mapRead
    rw [if_neg (by omega), ih fun d hd => h d (List.mem_cons_of_mem _ hd)]

/-- Reading a cell after a write: the written byte at its address, every other as before. -/
theorem mapRead_mapWrite {m : List Host.Cell} (h : mapWf m) (a b : Nat) (v : Byte) :
    mapRead b (mapWrite a v m) = if b = a then v else mapRead b m := by
  induction m with
  | nil =>
    unfold mapWrite
    split
    · next hv => subst hv; simp [mapRead]
    · simp [mapRead, eq_comm]
  | cons c m ih =>
    have hc := List.pairwise_cons.mp h.1
    unfold mapWrite
    split
    · next lt =>
      have hz : mapRead a (c :: m) = 0 := mapRead_of_lt fun d hd => by
        rcases List.mem_cons.mp hd with hd | hd
        · exact hd ▸ lt
        · exact Nat.lt_trans lt (hc.1 d hd)
      split
      · next hv =>
        split
        · next e => rw [e, hz, hv]
        · rfl
      · by_cases e : b = a
        · simp [mapRead, e]
        · simp [mapRead, e, Ne.symm e]
    · next nlt =>
      split
      · next e =>
        have hz : mapRead a m = 0 := mapRead_of_lt fun d hd => e ▸ hc.1 d hd
        split
        · next hv =>
          by_cases hb : b = a
          · rw [if_pos hb, hb, hz, hv]
          · rw [if_neg hb, mapRead, if_neg (by omega)]
        · by_cases hb : b = a
          · simp [mapRead, hb]
          · have h1 : ¬ a = b := Ne.symm hb
            have h2 : ¬ c.1 = b := by omega
            simp [mapRead, hb, h1, h2]
      · next ne =>
        unfold mapRead
        by_cases hb : c.1 = b
        · have : ¬ b = a := by omega
          simp [hb, this]
        · simp only [hb, if_false]
          exact ih (mapWf_tail h)

/-- Reading a cell after a clearing: untested inside the span, every other as before (R9). -/
theorem mapRead_mapClear (m : List Host.Cell) (base size b : Nat) :
    mapRead b (mapClear base size m) = if base ≤ b ∧ b < base + size then 0 else mapRead b m := by
  induction m with
  | nil => simp [mapClear, mapRead]
  | cons c m ih =>
    unfold mapClear at ih ⊢
    rw [List.filter_cons]
    by_cases hc : base ≤ c.1 ∧ c.1 < base + size
    · simp only [hc, decide_true, Bool.and_true, Bool.not_true, Bool.false_eq_true, if_false]
      rw [ih]
      split
      · rfl
      · next hb =>
        rw [mapRead, if_neg fun e : c.1 = b => hb (e ▸ hc)]
    · have hk : (!(decide (base ≤ c.1) && decide (c.1 < base + size))) = true := by
        simp; omega
      rw [if_pos hk]
      simp only [mapRead]
      by_cases hb : c.1 = b
      · rw [if_pos hb, if_pos hb, if_neg fun e => hc (hb.symm ▸ e)]
      · rw [if_neg hb, if_neg hb, ih]

end Sys2Proof.Machine
end

