-- ==== Sys2Proof/Laws/Pages.lean ====
section
/-! SUPPORT. The page store: contents read back as they were composed, and what a page is judged to be. -/
namespace Sys2Proof.Machine

/-! ### Characters of joined lists -/

theorem charAt_append_right (as bs : List Byte) (i : Nat) : charAt (as ++ bs) (as.length + i) = charAt bs i := by
  simp [charAt, List.getD, List.getElem?_append_right]

/-- Two characters of a number read back as the number. -/
theorem twoChars {n : Nat} (h : n < 65536) : 256 * (BitVec.ofNat 8 (n / 256)).toNat + (BitVec.ofNat 8 n).toNat = n := by
  simp only [BitVec.toNat_ofNat]
  omega

/-- One character of a number reads back as the number. -/
theorem oneChar {n : Nat} (h : n < 256) : (BitVec.ofNat 8 n).toNat = n := by
  simp only [BitVec.toNat_ofNat]
  omega

/-! ### Profiles -/

theorem Profile.image_length (p : Profile) : p.image.length = 21 + 5 * p.watched.length := by
  have h : ∀ ws : List Watched, (ws.flatMap Watched.image).length = 5 * ws.length := by
    intro ws
    induction ws with
    | nil => rfl
    | cons w ws ih => rw [List.flatMap_cons, List.length_append, ih, List.length_cons]; simp [Watched.image, write1, write2]; omega
  simp [Profile.image, write1, write2, h]
  omega

theorem readWatched_image (w : Watched) (h : w.inRange = true) (as bs : List Byte) :
    readWatched (as ++ (w.image ++ bs)) as.length = w := by
  obtain ⟨b, x, y⟩ := w
  simp [Watched.inRange] at h
  have e : ∀ i, charAt (as ++ (Watched.image ⟨b, x, y⟩ ++ bs)) (as.length + i) = charAt (Watched.image ⟨b, x, y⟩ ++ bs) i :=
    charAt_append_right _ _
  have e0 := e 0
  rw [Nat.add_zero] at e0
  simp only [readWatched, read2, read1, Nat.add_assoc, e, e0]
  simp [Watched.image, write1, write2, charAt]
  omega

theorem readWatched_list (ws : List Watched) (h : ∀ w ∈ ws, w.inRange = true) (as bs : List Byte) :
    (List.range ws.length).map (fun k => readWatched (as ++ (ws.flatMap Watched.image ++ bs)) (as.length + 5 * k)) = ws := by
  induction ws generalizing as with
  | nil => rfl
  | cons w ws ih =>
    rw [List.length_cons, List.range_succ_eq_map, List.map_cons, List.map_map]
    have hw := h w List.mem_cons_self
    congr 1
    · rw [List.flatMap_cons, List.append_assoc, Nat.mul_zero, Nat.add_zero, readWatched_image w hw]
    · have := ih (fun v hv => h v (List.mem_cons_of_mem _ hv)) (as ++ w.image)
      rw [List.length_append] at this
      rw [List.flatMap_cons, List.append_assoc]
      rw [← List.append_assoc as w.image]
      have hl : w.image.length = 5 := rfl
      rw [hl] at this
      refine Eq.trans (List.map_congr_left fun k _ => ?_) this
      show readWatched _ (as.length + 5 * (k + 1)) = _
      congr 1
      omega

/-- The 21 characters of a profile before its watched entries (Table 5-1). -/
def Profile.fixedChars (p : Profile) : List Byte :=
  [BitVec.ofNat 8 (p.window / 256), BitVec.ofNat 8 p.window, BitVec.ofNat 8 p.raiseDebounce,
    BitVec.ofNat 8 p.clearDebounce, BitVec.ofNat 8 (p.yieldWarnEnter / 256), BitVec.ofNat 8 p.yieldWarnEnter,
    BitVec.ofNat 8 (p.yieldWarnLeave / 256), BitVec.ofNat 8 p.yieldWarnLeave,
    BitVec.ofNat 8 (p.yieldHoldEnter / 256), BitVec.ofNat 8 p.yieldHoldEnter,
    BitVec.ofNat 8 (p.yieldHoldLeave / 256), BitVec.ofNat 8 p.yieldHoldLeave, BitVec.ofNat 8 p.runWarn,
    BitVec.ofNat 8 p.runHold, BitVec.ofNat 8 (p.siteWarn / 256), BitVec.ofNat 8 p.siteWarn,
    BitVec.ofNat 8 (p.siteHold / 256), BitVec.ofNat 8 p.siteHold, BitVec.ofNat 8 (p.lotFloor / 256),
    BitVec.ofNat 8 p.lotFloor, BitVec.ofNat 8 p.watched.length]

theorem Profile.image_eq (p : Profile) : p.image = p.fixedChars ++ p.watched.flatMap Watched.image := rfl

/-- Contents that begin with the image of a profile in range hold that profile (Table 5-1). -/
theorem readProfile_image (p : Profile) (h : p.accepted = true) (bs : List Byte) : readProfile (p.image ++ bs) 0 = p := by
  simp only [Profile.accepted, Profile.wellFormed, runLimitOk, Bool.and_eq_true, Bool.or_eq_true, decide_eq_true_eq,
    beq_iff_eq, List.all_eq_true] at h
  obtain ⟨⟨⟨⟨⟨⟨⟨⟨⟨⟨⟨⟨⟨⟨h1, h2⟩, h3⟩, h4⟩, h5⟩, h6⟩, h7⟩, h8⟩, h9⟩, h10⟩, h11⟩, h12⟩, h13⟩, h14⟩, -⟩ := h
  have hr := readWatched_list p.watched h14 p.fixedChars bs
  rw [Profile.image_eq, List.append_assoc]
  generalize p.watched.flatMap Watched.image ++ bs = rest at hr ⊢
  obtain ⟨w, rd, cd, ywe, ywl, yhe, yhl, rw', rh, sw, sh, lf, ws⟩ := p
  dsimp only [Profile.fixedChars] at *
  simp only [readProfile, read2, read1, charAt, List.cons_append, List.nil_append, Nat.zero_add, Nat.reduceAdd,
    List.getD_cons_succ, List.getD_cons_zero, twoChars (n := w) (by omega), oneChar (n := rd) (by omega),
    oneChar (n := cd) (by omega), twoChars (n := ywe) (by omega), twoChars (n := ywl) (by omega),
    twoChars (n := yhe) (by omega), twoChars (n := yhl) (by omega), oneChar (n := rw') (by omega),
    oneChar (n := rh) (by omega), twoChars (n := sw) (by omega), twoChars (n := sh) (by omega),
    twoChars (n := lf) (by omega), oneChar (n := ws.length) (by omega)]
  exact congrArg _ hr

theorem storedProfile_image (p : Profile) (h : p.accepted = true) (bs : List Byte) :
    storedProfile (p.image ++ bs) = some p := by
  simp [storedProfile, readProfile_image p h bs, h]

/-- What contents hold is a profile in range and consistent. -/
theorem storedProfile_accepted {bs : List Byte} {p : Profile} (h : storedProfile bs = some p) : p.accepted = true := by
  unfold storedProfile at h
  dsimp only at h
  split at h
  · next ha => cases h; exact ha
  · cases h

/-! ### Power-up defaults -/

theorem readLine_chars (l : LineSettings) (h : l.divisor ≤ 4095) (as bs : List Byte) :
    readLine (as ++ (l.chars ++ bs)) as.length = l ∧ lineOk (as ++ (l.chars ++ bs)) as.length = true := by
  have e : ∀ i, charAt (as ++ (l.chars ++ bs)) (as.length + i) = charAt (l.chars ++ bs) i := charAt_append_right _ _
  have e0 := e 0
  rw [Nat.add_zero] at e0
  obtain ⟨d, u, n, m⟩ := l
  dsimp only at h
  have hm : (BitVec.ofNat 8 m.toNat).toNat = m.toNat := oneChar (by omega)
  have hu : (TimerUnits.code u).toNat ≤ 1 := by cases u <;> decide
  have hu' : (if (TimerUnits.code u).toNat = 0 then TimerUnits.tenMs else TimerUnits.oneS) = u := by cases u <;> rfl
  simp only [readLine, lineOk, read2, read1, e, e0]
  have hf : BitVec.ofNat 5 (BitVec.ofNat 8 m.toNat).toNat = m := by rw [hm, BitVec.ofNat_toNat, BitVec.setWidth_eq]
  simp only [LineSettings.chars, write2, charAt, List.cons_append, List.nil_append, List.getD_cons_succ, List.getD_cons_zero,
    twoChars (n := d) (by omega), hf, hu', h, hu, decide_true, Bool.true_and, true_and]
  exact decide_eq_true (by omega)

theorem readLampTable_chars (t : LampTable) (bs : List Byte) : readLampTable (t.chars ++ bs) = some t := by
  have hl : ∀ l : LampChoice, LampChoice.ofCode l.code.toNat = some l := fun l => by cases l <;> rfl
  have hp : ∀ p : Pattern, Pattern.ofCode p.code.toNat = some p := fun p => by cases p <;> rfl
  simp only [readLampTable, readLampEntry, read1, charAt, LampTable.chars, LampEntry.chars, List.cons_append, List.nil_append,
    Nat.reduceAdd, List.getD_cons_succ, List.getD_cons_zero, hl, hp]

theorem binCodesOk_chars (t : Vector BinClass 64) (h : tabGet t 0 = .unused) : binCodesOk (binChars t) = true := by
  have hc : ∀ c : BinClass, c.code.toNat ≤ 2 := fun c => by cases c <;> decide
  have h0 : charAt (binChars t) 0 = 0 := by
    have : charAt (binChars t) 0 = (tabGet t 0).code := by
      simp [charAt, binChars, tabList, tabGet]
    rw [this, h]; rfl
  unfold binCodesOk
  rw [h0]
  simp [binChars, hc]

theorem readBins_chars (t : Vector BinClass 64) (bs : List Byte) : readBins (binChars t ++ bs) = t := by
  have hc : ∀ c : BinClass, BinClass.ofCode c.code.toNat = some c := fun c => by cases c <;> rfl
  apply Vector.ext
  intro i hi
  have : charAt (binChars t ++ bs) i = t[i].code := by
    have hl : i < (binChars t).length := by simpa [binChars, tabList] using hi
    simp [charAt, List.getD, List.getElem?_append_left hl]
    simp [binChars, tabList, hi]
  simp [readBins, read1, this, hc]

/-- Contents that begin with those composed for settings in range hold these settings (R178, R180). -/
theorem storedDefaults_chars (d : Defaults) (h0 : tabGet d.bins 0 = .unused) (h1 : ∀ p, (tabGet d.lines p).divisor ≤ 4095)
    (h2 : d.profile.accepted = true) (bs : List Byte) : storedDefaults (d.chars ++ bs) = some d := by
  obtain ⟨bins, lamps, lines, en, prof⟩ := d
  dsimp only at h0 h1 h2
  have hA : (binChars bins).length = 64 := by simp [binChars, tabList]
  have hB : lamps.chars.length = 10 := rfl
  have hL : tabList lines = [tabGet lines 0, tabGet lines 1, tabGet lines 2, tabGet lines 3] := by
    apply List.ext_getElem
    · simp [tabList]
    · intro i _ hi
      simp at hi
      interval_cases i <;> rfl
  have hC : ∀ p, (tabGet lines p).chars.length = 5 := fun p => rfl
  generalize hx : prof.image ++ bs = tail
  have e : (Defaults.mk bins lamps lines en prof).chars ++ bs = binChars bins ++ (lamps.chars ++ ((tabGet lines 0).chars ++
      ((tabGet lines 1).chars ++ ((tabGet lines 2).chars ++ ((tabGet lines 3).chars ++ (flagChar en :: tail)))))) := by
    simp only [Defaults.chars, hL, ← hx, List.flatMap_cons, List.flatMap_nil, List.append_assoc, List.cons_append,
      List.nil_append, List.append_nil]
  have r : ∀ (as cs : List Byte) (n : Nat), as.length = n → (as ++ cs).drop n = cs := fun as cs n hn => List.drop_left' hn
  have hd1 : ((Defaults.mk bins lamps lines en prof).chars ++ bs).drop 64 = lamps.chars ++ ((tabGet lines 0).chars ++
      ((tabGet lines 1).chars ++ ((tabGet lines 2).chars ++ ((tabGet lines 3).chars ++ (flagChar en :: tail))))) := by
    rw [e, r _ _ _ hA]
  have hd2 : ((Defaults.mk bins lamps lines en prof).chars ++ bs).drop 95 = tail := by
    rw [show 95 = 64 + 31 from rfl, ← List.drop_drop, hd1]
    rfl
  have hline : ∀ p, readLine ((Defaults.mk bins lamps lines en prof).chars ++ bs) (lineAt p) = tabGet lines p ∧
      lineOk ((Defaults.mk bins lamps lines en prof).chars ++ bs) (lineAt p) = true := by
    intro p
    rw [e]
    have go : ∀ (as cs : List Byte), as.length = lineAt p →
        readLine (as ++ ((tabGet lines p).chars ++ cs)) (lineAt p) = tabGet lines p ∧
        lineOk (as ++ ((tabGet lines p).chars ++ cs)) (lineAt p) = true := by
      intro as cs hl
      rw [← hl]
      exact readLine_chars _ (h1 p) as cs
    fin_cases p
    · have := go (binChars bins ++ lamps.chars) ((tabGet lines 1).chars ++ ((tabGet lines 2).chars ++
        ((tabGet lines 3).chars ++ (flagChar en :: tail)))) (by rw [List.length_append, hA, hB]; rfl)
      simp only [List.append_assoc] at this
      exact this
    · have := go (binChars bins ++ (lamps.chars ++ (tabGet lines 0).chars)) ((tabGet lines 2).chars ++
        ((tabGet lines 3).chars ++ (flagChar en :: tail))) (by simp only [List.length_append, hA, hB, hC]; rfl)
      simp only [List.append_assoc] at this
      exact this
    · have := go (binChars bins ++ (lamps.chars ++ ((tabGet lines 0).chars ++ (tabGet lines 1).chars)))
        ((tabGet lines 3).chars ++ (flagChar en :: tail)) (by simp only [List.length_append, hA, hB, hC]; rfl)
      simp only [List.append_assoc] at this
      exact this
    · have := go (binChars bins ++ (lamps.chars ++ ((tabGet lines 0).chars ++ ((tabGet lines 1).chars ++
        (tabGet lines 2).chars)))) (flagChar en :: tail) (by simp only [List.length_append, hA, hB, hC]; rfl)
      simp only [List.append_assoc] at this
      exact this
  have hen : read1 ((Defaults.mk bins lamps lines en prof).chars ++ bs) 94 = (flagChar en).toNat := by
    have := charAt_append_right (binChars bins ++ (lamps.chars ++ ((tabGet lines 0).chars ++ ((tabGet lines 1).chars ++
        ((tabGet lines 2).chars ++ (tabGet lines 3).chars))))) (flagChar en :: tail) 0
    simp only [List.length_append, hA, hB, hC, List.append_assoc, Nat.reduceAdd] at this
    rw [read1, e, this]
    rfl
  have hlines : (Vector.ofFn fun p : PortId => readLine ((Defaults.mk bins lamps lines en prof).chars ++ bs) (lineAt p)) = lines := by
    apply Vector.ext
    intro i hi
    simp only [Vector.getElem_ofFn, (hline _).1]
    rfl
  have hbins : ((Defaults.mk bins lamps lines en prof).chars ++ bs).take 64 = binChars bins := by
    rw [e, List.take_left' hA]
  unfold storedDefaults
  rw [hd1, hd2, readLampTable_chars, ← hx, storedProfile_image prof h2]
  simp only [hbins, binCodesOk_chars bins h0, hen, hlines, (hline _).2]
  rw [e, readBins_chars]
  cases en <;> simp [flagChar]

/-- What contents hold is in range: bin 0 UNUSED, every divisor at most 4095, the profile accepted. -/
theorem storedDefaults_inRange {bs : List Byte} {d : Defaults} (h : storedDefaults bs = some d) :
    tabGet d.bins 0 = .unused ∧ (∀ p, (tabGet d.lines p).divisor ≤ 4095) ∧ d.profile.accepted = true := by
  unfold storedDefaults at h
  split at h
  · next lamps prof _ hp =>
    split at h
    · next hc =>
      have he := Option.some.inj h
      subst he
      obtain ⟨hb, hl, -⟩ := hc
      refine ⟨?_, fun p => ?_, storedProfile_accepted hp⟩
      · rw [binCodesOk, Bool.and_eq_true, beq_iff_eq] at hb
        have h0 : charAt bs 0 = 0 := by
          rw [← hb.2]
          cases bs <;> rfl
        simp [readBins, tabGet, read1, h0]
        rfl
      · have hp := List.all_eq_true.mp hl p (mem_portIds p)
        simp only [lineOk, Bool.and_eq_true, decide_eq_true_eq] at hp
        simpa [tabGet, readLine] using hp.1.1
    · cases h
  · cases h

/-! ### What a page is judged to be (R177) -/

theorem storedValues_values (bs : List Byte) : storedValues (bs.map StoredByte.value) = some bs := by
  induction bs with
  | nil => rfl
  | cons b bs ih => rw [List.map_cons, storedValues, ih]; rfl

/-- Every byte has a value exactly where the values are all there. -/
theorem storedValues_some {l : List StoredByte} {bs : List Byte} :
    storedValues l = some bs ↔ l = bs.map StoredByte.value := by
  constructor
  · intro h
    induction l generalizing bs with
    | nil => cases h; rfl
    | cons x l ih =>
      cases x with
      | value b =>
        rw [storedValues, Option.map_eq_some_iff] at h
        obtain ⟨cs, hc, rfl⟩ := h
        rw [ih hc, List.map_cons]
      | erased => cases h
      | lost => cases h
  · rintro rfl
    exact storedValues_values bs

theorem tabList_written (v : Vector Byte 256) : tabList (PageBytes.written v) = (tabList v).map StoredByte.value := rfl

/-- A page is BLANK exactly where every byte is erased. -/
theorem PageBytes.judge_blank {α : Type} (contents : List Byte → Option α) (v : PageBytes) :
    v.judge contents = .blank ↔ v = PageBytes.erased := by
  have e : (tabList v).all StoredByte.isErased = true ↔ v = PageBytes.erased := by
    rw [tabList_all]
    constructor
    · intro h
      apply tab_ext
      intro i
      have := h i
      rw [PageBytes.erased, tabGet_replicate]
      cases hv : tabGet v i <;> rw [hv] at this <;> first | rfl | cases this
    · rintro rfl i
      rw [PageBytes.erased, tabGet_replicate]
      rfl
  unfold PageBytes.judge
  split
  · next h => exact ⟨fun _ => e.mp h, fun _ => rfl⟩
  · next h =>
    refine ⟨fun k => ?_, fun k => absurd (e.mpr k) h⟩
    split at k
    · cases k
    · split at k
      · split at k <;> cases k
      · cases k

/-- An erased page is BLANK. -/
@[simp] theorem PageBytes.judge_erased {α : Type} (contents : List Byte → Option α) :
    PageBytes.erased.judge contents = .blank := (PageBytes.judge_blank contents _).mpr rfl

/-- A page left without determined bytes is DAMAGED. -/
@[simp] theorem PageBytes.judge_lost {α : Type} (contents : List Byte → Option α) :
    PageBytes.lost.judge contents = .damaged := by
  have e : tabList PageBytes.lost = StoredByte.lost :: List.replicate 255 StoredByte.lost := by
    rw [← List.replicate_succ]
    exact Array.toList_replicate
  rw [PageBytes.judge, e]
  rfl

/-- Bytes composed for contents are VALID with what these contents, followed by the fill, hold. -/
theorem PageBytes.judge_image {α : Type} (contents : List Byte → Option α) (cs : List Byte) :
    (PageBytes.written (pageImage cs)).judge contents =
      match contents (pageBody cs) with
      | some c => .valid c
      | none => .damaged := by
  have hl : tabList (pageImage cs) = pageBody cs ++ [Config.pageCheck (pageBody cs)] := rfl
  have hn := pageBody_length cs
  have ht : (pageBody cs ++ [Config.pageCheck (pageBody cs)]).take 255 = pageBody cs := List.take_left' hn
  have hc : charAt (pageBody cs ++ [Config.pageCheck (pageBody cs)]) 255 = Config.pageCheck (pageBody cs) := by
    have := charAt_append_right (pageBody cs) [Config.pageCheck (pageBody cs)] 0
    rwa [hn] at this
  have hb : ¬((tabList (PageBytes.written (pageImage cs))).all StoredByte.isErased = true) := by
    rw [tabList_written, hl, List.map_append, List.all_append]
    simp [StoredByte.isErased]
  rw [PageBytes.judge, if_neg hb, tabList_written, storedValues_values, hl]
  simp only [hc, ht, if_true]
  all_goals rfl

/-- Contents of 255 characters or fewer stand first in the bytes composed for them. -/
theorem pageBody_eq {cs : List Byte} (h : cs.length ≤ 255) :
    pageBody cs = cs ++ (List.range (255 - cs.length)).map fun k => Config.pageFill (cs.length + k) := by
  rw [pageBody, List.take_append, List.take_of_length_le h, ← List.map_take, List.take_range, Nat.min_eq_left (Nat.sub_le _ _)]

/-- Page 0 is VALID at all times, with the identity of the part (R177). -/
theorem State.identityPage_valid (s : State) : s.identityPage = .valid s.identity := by
  have hl : s.identity.chars.length = 18 := rfl
  rw [State.identityPage, Identity.page, PageBytes.judge_image, pageBody_eq (by rw [hl]; decide)]
  generalize (List.range (255 - s.identity.chars.length)).map (fun k => Config.pageFill (s.identity.chars.length + k)) = fill
  have hs : storedIdentity (s.identity.chars ++ fill) = some s.identity := by
    obtain ⟨r, n⟩ := s.identity
    have hn : BitVec.ofNat 32 (read4 ((Identity.mk r n).chars ++ fill) 5) = n := by
      apply BitVec.eq_of_toNat_eq
      have := n.isLt
      simp [read4, read3, read2, read1, charAt, Identity.chars, write4, write3, write2, write1]
      omega
    have hr : charAt ((Identity.mk r n).chars ++ fill) 4 = r := rfl
    rw [storedIdentity, hn, hr, List.take_left' (show (Identity.mk r n).chars.length = 18 from rfl)]
    exact if_pos rfl
  rw [hs]

/-- A profile page written with an accepted profile is VALID with this profile (R180, R181). -/
theorem judge_profileImage (p : Profile) (h : p.accepted = true) :
    (PageBytes.written (pageImage p.image)).judge storedProfile = .valid p := by
  have hw : p.watched.length ≤ 8 := by
    simp only [Profile.accepted, Profile.wellFormed, Bool.and_eq_true, decide_eq_true_eq] at h
    omega
  rw [PageBytes.judge_image, pageBody_eq (by rw [Profile.image_length]; omega), storedProfile_image p h]

theorem Defaults.chars_length (d : Defaults) : d.chars.length = 95 + d.profile.image.length := by
  have hl : ∀ ls : List LineSettings, (ls.flatMap LineSettings.chars).length = 5 * ls.length := by
    intro ls
    induction ls with
    | nil => rfl
    | cons l ls ih => rw [List.flatMap_cons, List.length_append, ih, List.length_cons]; simp [LineSettings.chars, write2]; omega
  have h4 : (tabList d.lines).length = 4 := by simp [tabList]
  have h64 : (binChars d.bins).length = 64 := by simp [binChars, tabList]
  have h10 : d.lampTable.chars.length = 10 := rfl
  simp only [Defaults.chars, List.length_append, hl, h4, h64, h10, List.length_singleton]

/-- Page 1 written with settings in range is VALID with these settings (R180, R181). -/
theorem judge_defaultsImage (d : Defaults) (h0 : tabGet d.bins 0 = .unused) (h1 : ∀ p, (tabGet d.lines p).divisor ≤ 4095)
    (h2 : d.profile.accepted = true) : (PageBytes.written (pageImage d.chars)).judge storedDefaults = .valid d := by
  have hw : d.profile.watched.length ≤ 8 := by
    simp only [Profile.accepted, Profile.wellFormed, Bool.and_eq_true, decide_eq_true_eq] at h2
    omega
  rw [PageBytes.judge_image, pageBody_eq (by rw [Defaults.chars_length, Profile.image_length]; omega),
    storedDefaults_chars d h0 h1 h2]

/-! ### Pages of the state after a change -/

@[simp] theorem State.setPage_map (s : State) (pg : StoredPage) (v : PageBytes) : (s.setPage pg v).map = s.map := by
  cases pg <;> rfl
@[simp] theorem State.setPage_bins (s : State) (pg : StoredPage) (v : PageBytes) : (s.setPage pg v).bins = s.bins := by
  cases pg <;> rfl
@[simp] theorem State.setPage_slots (s : State) (pg : StoredPage) (v : PageBytes) : (s.setPage pg v).slots = s.slots := by
  cases pg <;> rfl
@[simp] theorem State.setPage_lots (s : State) (pg : StoredPage) (v : PageBytes) : (s.setPage pg v).lots = s.lots := by
  cases pg <;> rfl
@[simp] theorem State.setPage_ports (s : State) (pg : StoredPage) (v : PageBytes) : (s.setPage pg v).ports = s.ports := by
  cases pg <;> rfl
@[simp] theorem State.setPage_lampTable (s : State) (pg : StoredPage) (v : PageBytes) : (s.setPage pg v).lampTable = s.lampTable := by
  cases pg <;> rfl
@[simp] theorem State.setPage_lamps (s : State) (pg : StoredPage) (v : PageBytes) : (s.setPage pg v).lamps = s.lamps := by
  cases pg <;> rfl
@[simp] theorem State.setPage_host (s : State) (pg : StoredPage) (v : PageBytes) : (s.setPage pg v).host = s.host := by
  cases pg <;> rfl
@[simp] theorem State.setPage_notices (s : State) (pg : StoredPage) (v : PageBytes) : (s.setPage pg v).notices = s.notices := by
  cases pg <;> rfl
@[simp] theorem State.setPage_overflow (s : State) (pg : StoredPage) (v : PageBytes) : (s.setPage pg v).overflow = s.overflow := by
  cases pg <;> rfl
@[simp] theorem State.setPage_alertEnable (s : State) (pg : StoredPage) (v : PageBytes) : (s.setPage pg v).alertEnable = s.alertEnable := by
  cases pg <;> rfl
@[simp] theorem State.setPage_defaultProfile (s : State) (pg : StoredPage) (v : PageBytes) : (s.setPage pg v).defaultProfile = s.defaultProfile := by
  cases pg <;> rfl
@[simp] theorem State.setPage_identity (s : State) (pg : StoredPage) (v : PageBytes) : (s.setPage pg v).identity = s.identity := by
  cases pg <;> rfl
@[simp] theorem State.setPage_pageOp (s : State) (pg : StoredPage) (v : PageBytes) : (s.setPage pg v).pageOp = s.pageOp := by
  cases pg <;> rfl
@[simp] theorem State.setPage_pending (s : State) (pg : StoredPage) (v : PageBytes) : (s.setPage pg v).pending = s.pending := by
  cases pg <;> rfl

theorem State.setPage_pageBytes (s : State) (pg other : StoredPage) (v : PageBytes) :
    (s.setPage pg v).pageBytes other = if other = pg then v else s.pageBytes other := by
  cases pg <;> cases other <;> simp [State.setPage, State.pageBytes, tabGet_tabSet]

end Sys2Proof.Machine
end

