-- ==== Sys2Proof/Laws/Taking.lean ====
section
/-! SUPPORT. What taking a frame or a host command does, once for all commands (R148, R167, R168). -/
namespace Sys2Proof.Machine

/-! ### Host commands -/

/-- Taking a command and composing a reply is `answered`, whatever happened between outside the host line. -/
theorem State.compose_popHost (s : State) (rest : List Frame) (k : Byte) (payload : List Byte) :
    (s.popHost rest).compose (k + 0x80) payload = s.answered rest k payload := rfl

/-- The command at the front is run on the state it left, and its reply composed (R167). -/
theorem State.takeHost_finds {s : State} {k : Byte} {bs : List Byte} {rest : List Frame} (h : s.HostFinds k bs rest)
    (run : State → List Byte → Answer) :
    s.takeHost k run = (run (s.popHost rest) bs).1.compose (k + 0x80) (run (s.popHost rest) bs).2 := by
  unfold State.takeHost
  rw [h.1, h.2]
  simp

/-- Nothing is taken while a reply waits (R167). -/
theorem State.takeHost_waiting {s : State} (k : Byte) (run : State → List Byte → Answer)
    (h : s.host.reply.isSome = true) : s.takeHost k run = s := by
  unfold State.takeHost
  split
  · next h' _ => rw [h'] at h; cases h
  · rfl

/-- A command that finds another kind at the front changes nothing (log 1). -/
theorem State.takeHost_other {s : State} {k : Byte} (run : State → List Byte → Answer)
    (h : ∀ f rest, s.host.intake = f :: rest → f.kind ≠ k) : s.takeHost k run = s := by
  unfold State.takeHost
  split
  · next f rest _ hi => rw [if_neg (h f rest hi)]
  · rfl

/-- A refusal leaves the state as the command found it (R168). -/
@[simp] theorem State.refuse_fst (s : State) (st : Status) : (s.refuse st).1 = s := rfl
@[simp] theorem State.refuse_snd (s : State) (st : Status) : (s.refuse st).2 = [st.code] := rfl
@[simp] theorem State.accept_fst (s : State) (fields : List Byte) : (s.accept fields).1 = s := rfl
@[simp] theorem State.accept_snd (s : State) (fields : List Byte) : (s.accept fields).2 = 0 :: fields := rfl

/-- An unknown handle is refused (R19). -/
theorem State.withHandle_none {s : State} {h : Byte} (k : SlotId → Wafer → Answer) (hr : s.resolve h = none) :
    s.withHandle h k = s.refuse .unknownWafer := by
  unfold State.withHandle; rw [hr]

theorem State.withHandle_some {s : State} {h : Byte} {i : SlotId} {w : Wafer} (k : SlotId → Wafer → Answer)
    (hr : s.resolve h = some i) (hw : s.waferAt i = some w) : s.withHandle h k = k i w := by
  unfold State.withHandle; rw [hr]; dsimp only; rw [hw]

@[simp] theorem State.resolve_popHost (s : State) (rest : List Frame) (h : Byte) :
    (s.popHost rest).resolve h = s.resolve h := rfl
@[simp] theorem State.waferAt_popHost (s : State) (rest : List Frame) (i : SlotId) :
    (s.popHost rest).waferAt i = s.waferAt i := rfl
@[simp] theorem State.port_popHost (s : State) (rest : List Frame) (p : PortId) :
    (s.popHost rest).port p = s.port p := rfl

/-- A handle that names a slot is the handle of that slot (R19). -/
theorem State.handleOf_resolve {s : State} {h : Byte} {i : SlotId} (hr : s.resolve h = some i) : s.handleOf i = h := by
  unfold State.resolve at hr
  split at hr
  · next hi =>
    dsimp only at hr
    split at hr
    · next hg =>
      cases hr
      unfold State.handleOf mkHandle
      rw [hg.2]
      apply BitVec.eq_of_toNat_eq
      have := h.isLt
      simp only [BitVec.toNat_ofNat]
      omega
    · cases hr
  · cases hr

theorem State.waferAt_resolve {s : State} {h : Byte} {i : SlotId} (hr : s.resolve h = some i) :
    ∃ w, s.waferAt i = some w := by
  unfold State.resolve at hr
  split at hr
  · dsimp only at hr
    split at hr
    · next hg =>
      cases hr
      exact Option.isSome_iff_exists.mp hg.1
    · cases hr
  · cases hr

/-! ### Head frames -/

theorem State.ready_finds {s : State} {p : PortId} {k : Byte} {bs : List Byte} {rest : List Frame}
    (h : s.HeadFinds p k bs rest) : (s.port p).ready = some (⟨k, bs⟩, rest) := by
  unfold Port.ready
  rw [h.1]
  simp [h.2.1, h.2.2]

/-- The frame at the front is handed to its owner while the session is UP (R148). -/
theorem State.takeHead_up {s : State} {p : PortId} {k : Byte} {bs : List Byte} {rest : List Frame}
    (h : s.HeadFinds p k bs rest) (up : (s.port p).session = .up) (owner : State → List Byte → State) :
    s.takeHead p k owner = owner (s.withPort p fun q => q.takeFrame k rest) bs := by
  unfold State.takeHead
  rw [State.ready_finds h]
  simp [up]

/-- A frame taken while the session is not UP is refused with NOT_UP (R151). -/
theorem State.takeHead_notUp {s : State} {p : PortId} {k : Byte} {bs : List Byte} {rest : List Frame}
    (h : s.HeadFinds p k bs rest) (up : (s.port p).session ≠ .up) (owner : State → List Byte → State) :
    s.takeHead p k owner = (s.withPort p fun q => q.takeFrame k rest).refuseFrame p k .notUp (charAt bs 0) (charAt bs 1) := by
  unfold State.takeHead
  rw [State.ready_finds h]
  simp [up]

theorem State.ready_none {q : Port} {k : Byte}
    (h : 3 ≤ q.outbound.length ∨ q.session = .disabled ∨ ∀ f rest, q.intake = f :: rest → f.kind ≠ k) :
    q.ready = none ∨ ∃ f rest, q.ready = some (f, rest) ∧ f.kind ≠ k := by
  unfold Port.ready
  split
  · next f rest hi =>
    split
    · next hc =>
      rcases h with h | h | h
      · omega
      · exact absurd h hc.2
      · exact Or.inr ⟨f, rest, rfl, h f rest hi⟩
    · exact Or.inl rfl
  · exact Or.inl rfl

/-- No frame is taken while 3 wait, on a disabled port, or where another kind is at the front (R148,
log 1). -/
theorem State.takeHead_none {s : State} {p : PortId} {k : Byte} (owner : State → List Byte → State)
    (h : 3 ≤ (s.port p).outbound.length ∨ (s.port p).session = .disabled ∨
      ∀ f rest, (s.port p).intake = f :: rest → f.kind ≠ k) : s.takeHead p k owner = s := by
  unfold State.takeHead
  rcases State.ready_none h with h | ⟨f, rest, h, hk⟩
  · rw [h]
  · rw [h]; simp [hk]

/-- A command that may stop answers its next state where every cell exists (log 13). -/
theorem State.guardCells_true {s : State} (h : s.cellsExist = true) (t : State) : s.guardCells t = .next t := by
  unfold State.guardCells; rw [if_pos h]

end Sys2Proof.Machine
end

