-- ==== Sys2Proof/WellFormed.lean ====
section
/-! DEFINITION. Which commands are well-formed: what the operands of the receive commands may be. -/
namespace Sys2Proof

/-- The most characters one frame has: kind, length, 250 payload characters, check (Table 9-4). -/
def maxFrameChars : Nat := 253

/-- The characters of a receive command: at least one, no more than a frame has, and every stop bit
high, since a low one is the framing error of R141. -/
def RxChar.runOk (cs : List RxChar) : Bool :=
  !cs.isEmpty && cs.length ≤ maxFrameChars && cs.all (·.stopHigh)

/-- The character of a framing error command: a low stop bit, or an unmarked value of 251 to 255,
which is no length (R141). -/
def RxChar.isFault (c : RxChar) : Bool :=
  !c.stopHigh || (!c.mark && 251 ≤ c.value.toNat)

/-- The check of a command. Every operand but the received characters is in range by its type. -/
def Instr.wellFormed : Instr → Bool
  | .headFrameReceived _ cs => RxChar.runOk cs
  | .hostFrameReceived cs => RxChar.runOk cs
  | .framingError _ c => c.isFault
  | .hostFramingError c => c.isFault
  | .shortBreak _ => true
  | .longBreak _ => true
  | .hostShortBreak => true
  | .announce _ => true
  | .touch _ => true
  | .site _ => true
  | .lift _ => true
  | .unload _ => true
  | .beat _ => true
  | .nonHeadFrame _ => true
  | .silenceExpiry _ => true
  | .headFrameSend _ _ => true
  | .hostReplySend _ => true
  | .pageDone _ => true
  | .lampPhaseExpiry _ => true
  | .powerUp _ => true
  | .pinReset _ => true
  | .queryPart => true
  | .status => true
  | .headSet => true
  | .headStatus => true
  | .headDrop => true
  | .waferOpen => true
  | .waferClose => true
  | .waferAbandon => true
  | .waferResume => true
  | .waferDiscard => true
  | .waferRead => true
  | .mapRead => true
  | .alarmsRead => true
  | .limitsStage => true
  | .limitsRead => true
  | .holdRelease => true
  | .waferBins => true
  | .binsSet => true
  | .binsRead => true
  | .lampSet => true
  | .alertSet => true
  | .lotRead => true
  | .lotEnd => true
  | .noticeFetch => true
  | .pageRead => true
  | .pageWrite => true
  | .pageErase => true
  | .partReset => true
  | .unknownKind => true
  | .breakEnd _ => true
  | .hostBreakEnd => true
  | .frameFinished _ _ => true

end Sys2Proof
end

