-- ==== Sys2Proof/Tests/Slice0.lean ====
section
/-! SUPPORT. Our own tests: ill-formed commands, single steps against the worked values of the spec, and a
state that meets the hypotheses of each statement. -/

namespace Sys2Proof.Tests
open Sys2Proof Sys2Proof.Machine

set_option maxRecDepth 100000

/-! ### Ill-formed commands are refused by the check -/

theorem test_empty_run_is_ill_formed : (Instr.headFrameReceived 0 []).wellFormed = false := by decide

theorem test_empty_host_run_is_ill_formed : (Instr.hostFrameReceived []).wellFormed = false := by decide

theorem test_longest_run_is_well_formed :
    (Instr.headFrameReceived 0 (List.replicate 253 ⟨0, false, true⟩)).wellFormed = true := by decide

theorem test_longer_run_is_ill_formed :
    (Instr.hostFrameReceived (List.replicate 254 ⟨0, false, true⟩)).wellFormed = false := by decide

theorem test_run_with_low_stop_is_ill_formed :
    (Instr.headFrameReceived 0 [⟨0x16, true, true⟩, ⟨0, false, false⟩]).wellFormed = false := by decide

theorem test_framing_error_of_a_legal_length_is_ill_formed :
    (Instr.framingError 0 ⟨250, false, true⟩).wellFormed = false ∧
    (Instr.hostFramingError ⟨251, true, true⟩).wellFormed = false ∧
    (Instr.framingError 0 ⟨251, false, true⟩).wellFormed = true ∧
    (Instr.hostFramingError ⟨0, true, false⟩).wellFormed = true := by decide

/-! ### The states the tests start from -/

/-- Divisor 2, units of 10 ms, count 100, all five kinds. -/
def lineOn : LineSettings := ⟨2, .tenMs, 100, 31⟩

/-- A head UP with serial 40,211, maximum 4 and these frames in its intake queue. -/
def headUp (fs : List Frame) : Port :=
  { Port.reset with
    settings := lineOn
    session := .up
    intake := fs
    rdyOut := true
    silence := some 1000
    serial := 40211
    maxSites := 4 }

/-- A state with the silence timer of port A run out. -/
def silent (s : State) : State := s.withPort 0 fun q => { q with silence := some 0 }

/-- State.reset with this port A. -/
def withA (q : Port) : State := { State.reset with ports := tabSet State.reset.ports 0 q }

/-- A lot id of twelve characters. -/
def lotName : List Byte := List.replicate 12 0x41

/-- A 10 by 10 grid under BEST on port A. -/
def gridArgs : OpenArgs := ⟨0, lotName, 1, 10, 10, .best, 255⟩

/-- The wafer of handle 0x10, just opened on port A, changed by `f`, with these frames waiting and these
entries in the list. -/
def probing (fs : List Frame) (es : List Entry) (f : Wafer → Wafer) : State :=
  { withA { headUp fs with touchdowns := es } with
    slots := tabSet State.reset.slots 0 ⟨1, some (f (newWafer gridArgs 0 0 40211 factoryProfile))⟩
    lots := tabSet State.reset.lots 0 (some { Lot.fresh lotName with opened := 1 })
    lamps := ⟨⟨some .steady, true, 0⟩, ⟨none, false, 0⟩, ⟨none, false, 0⟩⟩ }

/-- A state with this command frame at the front of the host intake queue. -/
def asks (s : State) (k : Byte) (bs : List Byte) : State := { s with host := { s.host with intake := [⟨k, bs⟩] } }

/-- A state with this frame at the front of port A's intake queue. -/
def heads (s : State) (k : Byte) (bs : List Byte) : State := s.withPort 0 fun q => { q with intake := [⟨k, bs⟩] }

/-- The step of a state with this command queued answers a next state of which `f` holds. -/
def stepOk (s : State) (c : Instr) (f : State → Bool) : Bool :=
  match step { s with pending := [c] } with
  | .next t => f t
  | .fault _ => false
  | .refused _ => false

/-- The payload of the reply that waits. -/
def replied (t : State) : List Byte := (t.host.reply.map fun r => r.frame.payload).getD []

/-- An entry of tag `tag` with these sites as (site, column, row, result). -/
def entry (tag : Byte) (st : EntryState) (ds : List (SiteId × Nat × Nat × Option Bin)) : Entry :=
  ⟨tag, 0x10, st, ds.map fun d => ⟨d.1, d.2.1, d.2.2.1, d.2.2.2⟩⟩

/-! ### Values the spec works out -/

theorem test_crc_check_value : crc8 [0x31, 0x32, 0x33, 0x34, 0x35, 0x36, 0x37, 0x38, 0x39] = 0xF4 := by decide

/-- Table 5-4. -/
theorem test_yield_verdicts_of_table_5_4 :
    ([790, 820, 860, 910, 930].map fun y => (yieldVerdict factoryProfile none y, yieldVerdict factoryProfile (some .warn) y,
      yieldVerdict factoryProfile (some .hold) y)) =
    [(.hold, .hold, .hold), (.warn, .warn, .hold), (.warn, .warn, .warn), (.within, .warn, .warn),
     (.within, .within, .within)] := by decide

/-- The profile of wafer V in 5.5.1. -/
def profileV : Profile := { factoryProfile with window := 64, watched := [⟨7, 3, 6⟩] }

/-- The window of wafer V in 5.5.1. -/
def windowV : Window where
  count := 64
  pass := 54
  fail := 10
  siteResults := Vector.ofFn fun n => [18, 18, 18, 7, 3].getD n.val 0
  siteFails := Vector.ofFn fun n => [2, 1, 7].getD n.val 0
  watched := Vector.ofFn fun n => if n.val = 0 then 4 else 0

theorem test_verdicts_of_5_5_1 :
    (closingVerdicts profileV windowV Alarm.cleared).map (fun v => (v.1.val, v.2)) =
      [(0, .warn), (2, .warn), (10, .within), (11, .within), (12, .hold)] ++
      (List.range 13).map fun n => (n + 13, Verdict.within) := by decide

theorem test_deficits_of_5_5_1 :
    windowV.deficit 0 = 0 ∧ windowV.deficit 1 = 0 ∧ windowV.deficit 2 = 305 ∧
    (siteVerdict { profileV with siteHold := 305 } windowV 2 = .warn) ∧
    (siteVerdict { profileV with siteHold := 304 } windowV 2 = .hold) := by decide

/-- One record through the windows of 6.2.1, debounces 2 and 2. -/
theorem test_record_of_6_2_1 :
    (alarmStep 2 2 Alarm.cleared .warn).1 = ⟨.pending, some .warn, false, 1⟩ ∧
    alarmStep 2 2 ⟨.pending, some .warn, false, 1⟩ .warn = (Alarm.raisedWarn, .raised .warn) ∧
    alarmStep 2 2 Alarm.raisedWarn .hold = (Alarm.raisedHold false, .escalated) ∧
    alarmStep 2 2 (Alarm.raisedHold false) .within = (Alarm.raisedHold false, .none) ∧
    alarmStep 2 2 (Alarm.raisedHold true) .warn = (Alarm.raisedWarn, .none) ∧
    alarmStep 2 2 Alarm.raisedWarn .within = (⟨.clearing, some .warn, false, 1⟩, .none) ∧
    alarmStep 2 2 ⟨.clearing, some .warn, false, 1⟩ .warn = (Alarm.raisedWarn, .none) ∧
    alarmStep 2 2 ⟨.clearing, some .warn, false, 1⟩ .within = (Alarm.cleared, .cleared .warn) := by decide

/-- The placements of 11.4 from E1 on. -/
theorem test_placements_of_11_4 :
    let d := [(262144, 262144), (524288, 262144), (786432, 262144)]
    let first := [(0, 131072), (131072, 16384)] ++ d ++ [(196608, 65536), (147456, 16384)]
    let last := d ++ [(196608, 65536), (147456, 16384), (163840, 32768)]
    placeBlock first 32768 = some 163840 ∧ placeBlock ((163840, 32768) :: first) 16384 = none ∧
    placeBlock last 16384 = some 0 ∧ placeBlock ((0, 16384) :: last) 131072 = none ∧
    placeBlock ((0, 16384) :: last) 65536 = some 65536 := by decide

theorem test_block_sizes_of_11_4 :
    blockSizeFor (300 * 300) = 131072 ∧ blockSizeFor (128 * 128) = 16384 ∧ blockSizeFor (128 * 128 + 1) = 32768 ∧
    blockSizeFor (512 * 400) = 262144 ∧ blockSizeFor (180 * 180) = 32768 := by decide

/-- Lot yields of 7.6: 865 falls below 900, 912 does not. -/
theorem test_lot_yields_of_7_6 :
    perMille 692 800 = 865 ∧ perMille 1278 1400 = 912 ∧ ({ Lot.fresh lotName with tested := 800, pass := 692 }).isLow 900 = true ∧
    ({ Lot.fresh lotName with tested := 1400, pass := 1278 }).isLow 900 = false := by decide

/-! ### Head lines -/

/-- A BEAT written out, with its check of 0x29, and with 0x28 in its place. -/
theorem test_head_frame_received_joins_or_is_discarded :
    stepOk (withA (headUp [])) (.headFrameReceived 0 [⟨0x16, true, true⟩, ⟨0, false, true⟩, ⟨0x29, false, true⟩])
      (fun t => (t.port 0).intake == [⟨0x16, []⟩] && (t.port 0).rx == .hunt) = true ∧
    stepOk (withA (headUp [])) (.headFrameReceived 0 [⟨0x16, true, true⟩, ⟨0, false, true⟩, ⟨0x28, false, true⟩])
      (fun t => (t.port 0).intake == [] && (t.port 0).discarded == 1) = true := by decide

theorem test_ninth_frame_is_an_overrun :
    stepOk (withA { headUp (List.replicate 8 ⟨0x16, []⟩) with rdyOut := false }) (.headFrameReceived 0 (Frame.wire ⟨0x16, []⟩))
      (fun t => (t.port 0).intake.length == 8 && (t.port 0).overruns == 1 && t.notices == [.linkFault 0]) = true := by decide

theorem test_length_251_is_a_framing_fault :
    stepOk (withA { headUp [] with rx := .length 0x12 }) (.framingError 0 ⟨251, false, true⟩)
      (fun t => (t.port 0).rx == .hunt && (t.port 0).discarded == 1) = true := by decide

theorem test_low_stop_in_hunt_counts_nothing :
    stepOk (withA (headUp [])) (.framingError 0 ⟨5, false, false⟩)
      (fun t => (t.port 0).line == .low && (t.port 0).discarded == 0) = true := by decide

theorem test_short_break_discards_the_frame :
    stepOk (withA { headUp [] with rx := .payload 0x13 3 [] }) (.shortBreak 0)
      (fun t => (t.port 0).rx == .hunt && (t.port 0).discarded == 1 && (t.port 0).session == .up) = true := by decide

theorem test_break_end_raises_the_line :
    stepOk (withA { headUp [] with line := .longTaken }) (.breakEnd 0) (fun t => (t.port 0).line == .high) = true := by decide

/-- The long break of 11.3: two entries voided, the wafer SUSPENDED, two notices, amber at 1 Hz. -/
theorem test_long_break_loses_the_head_of_11_3 :
    stepOk (probing [] [entry 70 .isOpen [(0, 0, 0, some 1)], entry 71 .isSealed [(0, 1, 0, some 1)]] id) (.longBreak 0)
      (fun t => (t.port 0).session == .lost .brk && (t.port 0).touchdowns == [] && (t.port 0).silence == none &&
        (t.waferAt 0).any (fun w => w.state == .suspended && w.touchdownsVoided == 2 && w.revision == 0) &&
        t.notices == [.waferSuspended 0 0x10, .headLost 0 .brk] &&
        t.lamps == ⟨⟨none, false, 0⟩, ⟨some .blinkOne, true, 500⟩, ⟨none, false, 0⟩⟩) = true := by decide

theorem test_silence_expiry_loses_the_head :
    stepOk (silent (probing [⟨0x13, [7, 9, 1]⟩] [] id)) (.silenceExpiry 0)
      (fun t => (t.port 0).session == .lost .silence && (t.port 0).intake == []) = true := by decide

theorem test_reloaded_silence_timer_does_not_expire :
    stepOk (silent (probing [⟨0x16, []⟩] [] id)) (.beat 0)
      (fun t => stepOk t (.silenceExpiry 0) fun u => (u.port 0).session == .up && (u.port 0).silence == some 1000) = true := by
  decide

theorem test_head_frame_send_takes_the_front :
    stepOk (withA { headUp [] with outbound := [.proceed 0x10, .cancel 0x11] }) (.headFrameSend 0 true)
      (fun t => (t.port 0).outbound == [.cancel 0x11] && (t.port 0).sending == some ⟨.proceed 0x10, 2⟩) = true := by decide

theorem test_frame_finished_waits_without_ready :
    stepOk (withA { headUp [] with outbound := [.cancel 0x11], sending := some ⟨.proceed 0x10, 2⟩ }) (.frameFinished 0 false)
      (fun t => (t.port 0).outbound == [.cancel 0x11] && (t.port 0).sending == none) = true := by decide

/-! ### Head frames -/

/-- The ANNOUNCE of 11.3, with its serial of 40,211 = 0x9D13, resumes the wafer. -/
theorem test_announce_resumes_the_wafer_of_11_3 :
    stepOk (((probing [⟨0x11, [0, 0, 0x9D, 0x13, 4, 0x10]⟩] [] fun w => { w with state := .suspended }).withPort 0 fun q =>
        { q with session := .lost .brk, silence := none }).settleLamps) (.announce 0)
      (fun t => (t.port 0).session == .up && (t.port 0).silence == some 1000 && (t.port 0).maxSites == 4 &&
        (t.waferAt 0).any (fun w => w.state == .active) && t.notices == [.headUp 0 (some 0x10)] &&
        (t.port 0).outbound == [.welcome 0 1000 (some 0x10)] &&
        t.lamps == ⟨⟨some .steady, true, 0⟩, ⟨none, false, 0⟩, ⟨none, false, 0⟩⟩) = true := by decide

/-- An ANNOUNCE on an UP port suspends and resumes the wafer: PROBING ends and begins, and its blink begins again
with a full lit half (R128, log 10). -/
theorem test_announce_on_an_up_port_restarts_the_lamp :
    stepOk { probing [⟨0x11, [0, 0, 0x9D, 0x13, 4, 0x10]⟩] [] id with
        lampTable := { factoryLampTable with probing := ⟨.green, .blinkOne⟩ }
        lamps := ⟨⟨some .blinkOne, false, 120⟩, ⟨none, false, 0⟩, ⟨none, false, 0⟩⟩ } (.announce 0)
      (fun t => t.lamps.green == ⟨some .blinkOne, true, 500⟩ && t.lamps.amber == ⟨none, false, 0⟩ &&
        (t.waferAt 0).any fun w => w.state == .active) = true := by decide

theorem test_announce_of_17_sites_is_refused :
    stepOk (withA (headUp [⟨0x11, [0, 0, 0x9D, 0x13, 17]⟩])) (.announce 0)
      (fun t => (t.port 0).outbound == [.refuse 0x11 .badLength 17 0] && (t.port 0).session == .up) = true := by decide

theorem test_touch_opens_an_entry :
    stepOk (probing [⟨0x12, [0x10, 7, 1, 3, 0, 9, 0, 9]⟩] [] id) (.touch 0)
      (fun t => (t.port 0).touchdowns == [entry 7 .isOpen [(3, 9, 9, none)]] &&
        (t.port 0).outbound == [.touchAck 0x10 7 .accepted]) = true := by decide

theorem test_touch_outside_the_grid_is_refused :
    stepOk (probing [⟨0x12, [0x10, 7, 1, 3, 0, 10, 0, 9]⟩] [] id) (.touch 0)
      (fun t => (t.port 0).touchdowns == [] && (t.port 0).outbound == [.touchAck 0x10 7 .badSite]) = true := by decide

theorem test_site_stores_a_result :
    stepOk (probing [⟨0x13, [7, 3, 63]⟩] [entry 7 .isOpen [(3, 9, 9, none)]] id) (.site 0)
      (fun t => (t.port 0).touchdowns == [entry 7 .isOpen [(3, 9, 9, some 63)]] && (t.port 0).outbound == []) = true := by decide

theorem test_site_of_bin_64_is_refused :
    stepOk (probing [⟨0x13, [7, 3, 64]⟩] [entry 7 .isOpen [(3, 9, 9, none)]] id) (.site 0)
      (fun t => (t.port 0).outbound == [.refuse 0x13 .badBin 7 3]) = true := by decide

/-- Wafer P of 11.1 after LIFT 4. -/
def waferP (w : Wafer) : Wafer :=
  { w with
    active := { factoryProfile with window := 16 }
    revision := 4
    touchdownsApplied := 4
    bins := tabSet (tabSet (tabSet w.bins 1 10) 3 1) 5 1
    tested := 12
    passDies := 10
    failDies := 2
    resultsApplied := 12
    window := { w.window with
      count := 12
      pass := 10
      fail := 2
      siteResults := Vector.ofFn fun n => [4, 4, 4].getD n.val 0
      siteFails := Vector.ofFn fun n => [0, 1, 1].getD n.val 0 } }

/-- The state of 11.1 before LIFT 5. -/
def before5 : State :=
  { probing [⟨0x14, [5]⟩]
      [entry 5 .isOpen [(0, 3, 1, some 1), (1, 4, 1, some 1), (2, 5, 1, some 1)],
       entry 6 .isSealed [(0, 2, 0, some 1), (1, 7, 0, some 1), (2, 6, 1, some 4)]] waferP with
    map := [(0, 0x41), (1, 0x41), (2, 0x45), (3, 0x41), (4, 0x41), (5, 0x41), (6, 0x41), (7, 0x43), (8, 0x41),
      (10, 0x41), (11, 0x41), (12, 0x41)] }

/-- LIFT 5 of 11.1.2 applies tags 5 and 6 in one pass. -/
theorem test_lift_5_of_11_1 :
    stepOk before5 (.lift 0) (fun t =>
      (t.port 0).touchdowns == [] && t.notices == [] && mapRead 2 t.map == 0x81 && mapRead 7 t.map == 0x81 && mapRead 16 t.map == 0x44 &&
      (t.waferAt 0).any fun w =>
        tabGet w.bins 1 == 15 && tabGet w.bins 4 == 1 && tabGet w.bins 3 == 0 && tabGet w.bins 5 == 0 &&
        [w.tested, w.passDies, w.failDies] == [16, 15, 1] &&
        [w.resultsApplied, w.retestResults, w.excessResults] == [18, 2, 0] &&
        [w.touchdownsApplied, w.revision.toNat, w.windowsClosed, w.run] == [6, 6, 1, 1] &&
        [w.window.count, w.window.pass, w.window.fail] == [2, 1, 1] &&
        (tabList w.window.siteResults).take 3 == [0, 1, 1] && (tabList w.window.siteFails).take 3 == [0, 0, 1] &&
        tabGet w.alarms 0 == ⟨.pending, some .warn, false, 1⟩) = true := by decide

/-- LIFT 50 of 11.2: the fifth fail in a row escalates RUN and holds the head. -/
theorem test_lift_50_of_11_2 :
    stepOk ((probing [⟨0x14, [50]⟩] [entry 50 .isOpen [(0, 0, 0, some 9), (1, 1, 0, some 9)], entry 51 .isOpen [(0, 2, 0, none)]]
        fun w => { w with
          active := { w.active with runWarn := 3, runHold := 5 }
          run := 3
          alarms := tabSet w.alarms 1 Alarm.raisedWarn }).settleLamps) (.lift 0) (fun t =>
      (t.port 0).held && (t.port 0).outbound == [.hold 0x10 1] && (t.port 0).touchdowns.map (·.tag) == [51] &&
      t.notices == [.alarmRaised (some 0) 0x10 1 .hold, .holdOn 0 0x10 1] &&
      (t.waferAt 0).any (fun w => w.run == 5 && w.alarmsRaised == 0 && tabGet w.alarms 1 == Alarm.raisedHold false) &&
      t.lamps == ⟨⟨some .steady, true, 0⟩, ⟨none, false, 0⟩, ⟨some .steady, true, 0⟩⟩) = true := by decide

theorem test_unload_without_entries_closes :
    stepOk (probing [⟨0x15, [0x10]⟩] [] id) (.unload 0)
      (fun t => (t.waferAt 0).any (fun w => w.state == .closed && w.closeCause == some .unloaded && w.boundPort == none) &&
        t.notices == [.waferClosed (some 0) 0x10 .unloaded] && (tabGet t.lots 0).any (fun e => e.closed == 1) &&
        t.lamps.green == ⟨some .blinkQuarter, true, 2000⟩) = true := by decide

theorem test_unload_with_an_entry_drains :
    stepOk (probing [⟨0x15, [0x10]⟩] [entry 7 .isOpen [(3, 9, 9, none)]] id) (.unload 0)
      (fun t => (t.waferAt 0).any (fun w => w.state == .draining) && t.lamps.green == ⟨none, false, 0⟩) = true := by decide

theorem test_beat_reloads_the_timer :
    stepOk (withA { headUp [⟨0x16, []⟩] with silence := some 3 }) (.beat 0)
      (fun t => (t.port 0).silence == some 1000 && (t.port 0).taken == 1 && (t.port 0).outbound == []) = true := by decide

theorem test_non_head_frame_is_discarded :
    stepOk (withA { headUp [⟨0x21, []⟩] with silence := some 3 }) (.nonHeadFrame 0)
      (fun t => (t.port 0).silence == some 3 && (t.port 0).discarded == 1 && (t.port 0).intake == []) = true := by decide

/-! ### The host line, pages, lamps and resets -/

theorem test_host_frame_received_joins_the_intake :
    stepOk State.reset (.hostFrameReceived (Frame.wire ⟨0x41, []⟩))
      (fun t => t.host.intake == [⟨0x41, []⟩] && t.host.rdyOut) = true := by decide

theorem test_host_framing_error_discards :
    stepOk { State.reset with host := { HostLine.reset with rx := .length 0x41 } } (.hostFramingError ⟨0, false, false⟩)
      (fun t => t.host.rx == .hunt && t.host.discarded == 1) = true := by decide

theorem test_host_short_break_discards :
    stepOk { State.reset with host := { HostLine.reset with rx := .length 0x41 } } .hostShortBreak
      (fun t => t.host.rx == .hunt && t.host.discarded == 1 && t.host.line == .shortTaken) = true := by decide

theorem test_host_break_end_raises_the_line :
    stepOk { State.reset with host := { HostLine.reset with line := .shortTaken } } .hostBreakEnd
      (fun t => t.host.line == .high) = true := by decide

theorem test_reply_sent_whole_leaves_the_line :
    stepOk { State.reset with host := { HostLine.reset with reply := some ⟨⟨0xC1, [0]⟩, false⟩ } } (.hostReplySend (.whole true))
      (fun t => t.host.reply == none) = true := by decide

theorem test_unknown_kind_is_answered :
    stepOk (asks State.reset 0x5B []) .unknownKind
      (fun t => t.host.reply == some ⟨⟨0xDB, [3]⟩, false⟩ && t.host.intake == []) = true := by decide

theorem test_page_done_of_an_erase :
    stepOk { State.reset with page1 := PageBytes.lost, pageOp := some ⟨.erase .defaults, 0⟩ } (.pageDone true)
      (fun t => t.defaultsPage.isBlank && t.pageOp == none && t.notices == [.pageDone 1 .erased]) = true := by decide

theorem test_page_done_of_a_program :
    stepOk { State.reset with pageOp := some ⟨.program (.profile 0) (pageImage profileV.image), 0⟩ } (.pageDone true)
      (fun t => (t.profilePage 0).isValid && t.pageOp == none && t.notices == [.pageDone 2 .written]) = true := by
  have h := judge_profileImage profileV (by decide)
  simp [stepOk, step, exec, execPageDone, State.pageDone, State.setPage, State.verifies, State.pageBytes, State.pageValid,
    State.profilePage, State.notify, PageJob.page, PageJob.target, PageJob.result, Page.isValid, h, State.reset]
  decide

theorem test_page_done_of_a_failed_program :
    stepOk { State.reset with pageOp := some ⟨.program (.profile 0) (pageImage profileV.image), 0⟩ } (.pageDone false)
      (fun t => t.profilePage 0 == .damaged && t.pageOp == none && t.notices == [.pageDone 2 .failed]) = true := by decide

theorem test_power_up_loads_a_valid_page :
    stepOk { State.reset with page1 := PageBytes.written (pageImage (Defaults.mk factoryBins factoryLampTable
        (Vector.replicate 4 lineOn) false profileV).chars) } (.powerUp ⟨false, false⟩)
      (fun t => t.alertEnable == false && t.defaultProfile == profileV && (t.port 3).settings == lineOn) = true := by
  have h := judge_defaultsImage ⟨factoryBins, factoryLampTable, Vector.replicate 4 lineOn, false, profileV⟩ (by decide)
    (by decide) (by decide)
  simp [stepOk, step, exec, execPowerUp, State.restart, State.cutShort, State.defaultsPage, loadedDefaults, h, State.port,
    Port.start, State.reset]
  decide

theorem test_lamp_phase_expiry_turns_the_half :
    stepOk { State.reset with lamps := { State.reset.lamps with green := ⟨some .blinkQuarter, true, 0⟩ } } (.lampPhaseExpiry .green)
      (fun t => t.lamps.green == ⟨some .blinkQuarter, false, 2000⟩) = true := by decide

theorem test_power_up_reads_the_straps :
    stepOk (probing [] [] id) (.powerUp ⟨true, true⟩)
      (fun t => t.host.divisor == 64 && (t.waferAt 0).isNone && (t.port 0).session == .disabled) = true := by decide

theorem test_pin_reset_damages_the_page_in_flight :
    stepOk { State.reset with pageOp := some ⟨.erase (.profile 0), 9⟩ } (.pinReset ⟨false, true⟩)
      (fun t => t.host.divisor == 4 && t.profilePage 0 == .damaged && t.pageOp == none) = true := by decide

theorem test_empty_queue_lets_a_millisecond_pass :
    (match step (withA (headUp [])) with | .next t => (t.port 0).silence == some 999 && t.lamps.green.timer == 1999 | _ => false) = true := by
  decide

/-! ### Host commands -/

theorem test_query_part_names_the_part :
    stepOk (asks State.reset 0x40 []) .queryPart (fun t => (replied t).length == 19 &&
      (replied t).take 5 == [0, 0x0B, 0x71, 0x04, 0x16] && (replied t).drop 10 == [4, 16, 12, 4, 0x10, 0, 0, 32, 8]) = true := by decide

theorem test_status_reports_the_wafer :
    stepOk (asks (probing [] [] id) 0x41 []) .status (fun t => replied t ==
      [0, 2, 0, 0, 0, 0, 0, 0, 0, 1, 0x10, 1, 4, 0, 0, 0, 0, 0, 0, 0, 0, 0, 0, 0xFF]) = true := by decide

theorem test_head_set_disables_an_up_port :
    stepOk (asks (probing [] [] id) 0x42 [0, 0, 0, 1, 5, 31]) .headSet (fun t => replied t == [0] &&
      (t.port 0).session == .disabled && (t.port 0).settings == ⟨0, .oneS, 5, 31⟩ && (t.port 0).rdyOut == false &&
      t.notices == [.waferSuspended 0 0x10, .headLost 0 .disabled]) = true := by decide

theorem test_head_set_of_divisor_4096_is_refused :
    stepOk (asks State.reset 0x42 [0, 16, 0, 1, 5, 31]) .headSet (fun t => replied t == [2]) = true := by decide

theorem test_head_status_reports_the_port :
    stepOk (asks (withA { headUp [] with overruns := 258, faultReported := true, touchdowns := [entry 7 .isSealed [(0, 0, 0, none)]] })
        0x43 [0]) .headStatus (fun t => replied t ==
      [0, 0, 2, 0, 0, 0, 0x9D, 0x13, 4, 0, 3, 0xE8, 0, 2, 0, 100, 31, 0, 0, 0, 0, 0, 0, 0, 1, 2, 1, 0, 1, 7, 1] &&
      (t.port 0).overruns == 0 && (t.port 0).faultReported == false) = true := by decide

theorem test_head_drop_suspends_the_wafer :
    stepOk (asks (probing [] [] id) 0x44 [0]) .headDrop (fun t => replied t == [0, 0] &&
      (t.port 0).session == .lost .dropped && (t.waferAt 0).any (fun w => w.state == .suspended)) = true := by decide

/-- A WAFER_OPEN of a 300 by 300 grid on an empty collator, as W1 of 11.4. -/
theorem test_wafer_open_of_11_4 :
    stepOk (asks (withA (headUp [])) 0x48 ([0] ++ lotName ++ [1, 1, 0x2C, 1, 0x2C, 2, 0xFF])) .waferOpen (fun t =>
      replied t == [0, 0x10] && (t.port 0).outbound == [.assign 0x10 lotName 1 300 300 .best] &&
      (t.waferAt 0).any (fun w => w.base == 0 && w.size == 131072 && w.state == .active && w.lotEntry == some 0) &&
      (tabGet t.lots 0).any (fun e => e.opened == 1)) = true := by decide

theorem test_wafer_open_on_a_busy_head_is_refused :
    stepOk (asks (probing [] [] id) 0x48 ([0] ++ lotName ++ [2, 1, 0x2C, 1, 0x2C, 2, 0xFF])) .waferOpen
      (fun t => replied t == [10] && (t.waferAt 1).isNone) = true := by decide

theorem test_wafer_close_voids_and_cancels :
    stepOk (asks (probing [] [entry 7 .isSealed [(0, 0, 0, some 1)]] id) 0x49 [0x10]) .waferClose (fun t => replied t == [0, 0x10] &&
      (t.port 0).touchdowns == [] && (t.port 0).outbound == [.cancel 0x10] && t.notices == [.waferClosed (some 0) 0x10 .forced] &&
      (t.waferAt 0).any (fun w => w.state == .closed && w.touchdownsVoided == 1 && w.touchdownsApplied == 0)) = true := by decide

theorem test_wafer_abandon_counts_in_the_lot :
    stepOk (asks (probing [] [] fun w => { w with tested := 150 }) 0x4A [0x10]) .waferAbandon (fun t => replied t == [0, 0x10] &&
      t.notices == [] && (t.waferAt 0).any (fun w => w.state == .abandoned && w.closeCause == none) &&
      (tabGet t.lots 0).any (fun e => e.abandoned == 1 && e.tested == 0)) = true := by decide

theorem test_wafer_resume_takes_the_new_serial :
    stepOk (asks ((probing [] [] fun w => { w with state := .suspended, serial := 1 }).settleLamps) 0x4B [0x10, 0]) .waferResume
      (fun t => replied t == [0, 0x10] && (t.waferAt 0).any (fun w => w.state == .active && w.serial == 40211) &&
        (t.port 0).outbound == [.assign 0x10 lotName 1 10 10 .best]) = true := by decide

theorem test_wafer_discard_keeps_the_generation :
    stepOk (asks (probing [] [] (·.close .forced)) 0x4C [0x10]) .waferDiscard (fun t => replied t == [0, 0x10] &&
      tabGet t.slots 0 == ⟨1, none⟩) = true := by decide

theorem test_wafer_read_has_the_length_of_table_9_9 :
    stepOk (asks (probing [] [] id) 0x4D [0x10]) .waferRead (fun t => (replied t).length == 149 &&
      (replied t).take 4 == [0, 0x10, 1, 0]) = true := by decide

theorem test_map_read_answers_cells :
    stepOk (asks { probing [] [] id with map := [(98, 0x41), (99, 0xC1)] } 0x4E [0x10, 0, 0, 97, 3]) .mapRead
      (fun t => replied t == [0, 0x10, 0, 0, 0, 0, 0, 0, 97, 3, 0, 0x41, 0xC1]) = true := by decide

theorem test_map_read_past_the_grid_is_refused :
    stepOk (asks (probing [] [] id) 0x4E [0x10, 0, 0, 98, 3]) .mapRead (fun t => replied t == [2]) = true := by decide

theorem test_alarms_read_answers_records :
    stepOk (asks (probing [] [] fun w => { w with alarms := tabSet w.alarms 1 (Alarm.raisedHold true) }) 0x4F [0x10]) .alarmsRead
      (fun t => (replied t).length == 106 && (replied t).take 10 == [0, 0x10, 0, 0, 0, 0, 2, 2, 1, 0]) = true := by decide

theorem test_limits_stage_of_a_blank_page_is_refused :
    stepOk (asks (probing [] [] id) 0x50 [0x10, 7]) .limitsStage (fun t => replied t == [13]) = true := by decide

theorem test_limits_stage_of_an_image :
    stepOk (asks (probing [] [] id) 0x50 (0x10 :: profileV.image)) .limitsStage (fun t => replied t == [0, 0x10] &&
      (t.waferAt 0).any (fun w => w.staged == some ⟨profileV, 0xFE⟩)) = true := by decide

theorem test_limits_read_answers_the_factory_profile :
    stepOk (asks (probing [] [] id) 0x51 [0x10]) .limitsRead (fun t => replied t ==
      [0, 0x10, 0xFF, 1, 0, 2, 2, 3, 0x84, 3, 0x98, 3, 0x20, 3, 0x52, 8, 16, 0, 100, 0, 200, 0, 0, 0, 0]) = true := by decide

/-- The HOLD_RELEASE of 11.2. -/
theorem test_hold_release_of_11_2 :
    stepOk (asks (((probing [] [] fun w => { w with alarms := tabSet w.alarms 1 (Alarm.raisedHold false) }).withPort 0 fun q =>
        { q with held := true }).settleLamps) 0x52 [0x10]) .holdRelease (fun t => replied t == [0, 0x10, 1] &&
      (t.port 0).held == false && (t.port 0).outbound == [.proceed 0x10] && t.notices == [.holdOff 0 0x10] &&
      t.lamps == ⟨⟨some .steady, true, 0⟩, ⟨some .steady, true, 0⟩, ⟨none, false, 0⟩⟩) = true := by decide

theorem test_wafer_bins_answers_counters :
    stepOk (asks (probing [] [] fun w => { w with bins := tabSet w.bins 1 262144 }) 0x53 [0x10]) .waferBins
      (fun t => (replied t).length == 191 && (replied t).take 6 == [0, 0x10, 4, 0, 0, 0]) = true := by decide

theorem test_bins_set_is_refused_while_a_wafer_is_bound :
    stepOk (asks (probing [] [] id) 0x54 (0 :: List.replicate 63 1)) .binsSet (fun t => replied t == [5] && t.binClass 2 == .fail) = true := by
  decide

theorem test_bins_set_replaces_the_table :
    stepOk (asks State.reset 0x54 (0 :: List.replicate 63 1)) .binsSet (fun t => replied t == [0] && t.binClass 63 == .pass) = true := by
  decide

theorem test_bins_read_answers_codes :
    stepOk (asks State.reset 0x55 []) .binsRead (fun t => replied t == [0, 0, 1] ++ List.replicate 62 2) = true := by decide

theorem test_lamp_set_derives_the_lamps :
    stepOk (asks State.reset 0x56 [0, 0, 0, 0, 0, 0, 0, 0, 3, 5]) .lampSet (fun t => replied t == [0] &&
      t.lamps == ⟨⟨none, false, 0⟩, ⟨none, false, 0⟩, ⟨some .blinkFour, true, 125⟩⟩) = true := by decide

theorem test_alert_set_drives_the_line :
    stepOk (asks { State.reset with notices := [.linkFault 0] } 0x57 [0]) .alertSet
      (fun t => replied t == [0] && t.alert == false && t.notices.length == 1) = true := by decide

theorem test_lot_read_answers_the_entry :
    stepOk (asks (probing [] [] id) 0x58 [0]) .lotRead (fun t => (replied t).length == 220 &&
      (replied t).take 31 == [0, 0] ++ lotName ++ [0, 0, 1, 0, 0, 0, 0, 0, 0, 1, 0, 0, 0, 0, 0, 0, 0]) = true := by decide

theorem test_lot_end_with_a_bound_member_is_refused :
    stepOk (asks (probing [] [] id) 0x59 [0]) .lotEnd (fun t => replied t == [5] && (tabGet t.lots 0).isSome) = true := by decide

theorem test_lot_end_frees_the_entry :
    stepOk (asks (probing [] [] (·.close .forced)) 0x59 [0]) .lotEnd (fun t => (replied t).length == 220 &&
      tabGet t.lots 0 == none && (t.waferAt 0).any (fun w => w.lotEntry == none)) = true := by decide

theorem test_notice_fetch_of_a_full_queue :
    stepOk (asks { State.reset with notices := .headLost 3 .silence :: List.replicate 31 (.linkFault 0), overflow := true } 0x5A [])
      .noticeFetch (fun t => (replied t).take 9 == [0, 1, 8, 24, 2, 3, 0xFF, 1, 0] && (replied t).length == 44 &&
        t.notices.length == 24 && t.overflow == false) = true := by decide

theorem test_page_read_of_a_blank_page :
    stepOk (asks State.reset 0x5C [7]) .pageRead (fun t => replied t == [0, 7, 2]) = true := by decide

theorem test_page_write_snapshots_the_settings :
    stepOk (asks State.reset 0x5D (1 :: profileV.image)) .pageWrite (fun t => replied t == [0, 1] && t.defaultsPage == .damaged &&
      (match t.pageOp with
        | some ⟨.program .defaults bytes, 8⟩ => (tabList bytes).take 121 ==
          (Defaults.mk factoryBins factoryLampTable (Vector.replicate 4 factoryLine) true profileV).chars
        | _ => false)) = true := by decide

theorem test_page_erase_starts :
    stepOk (asks State.reset 0x5E [7]) .pageErase (fun t => replied t == [0, 7] && t.pageOp == some ⟨.erase (.profile 5), 20⟩) = true := by
  decide

theorem test_part_reset_keeps_the_generation :
    stepOk (asks (probing [⟨0x16, []⟩] [] id) 0x5F []) .partReset (fun t => replied t == [0] && tabGet t.slots 0 == ⟨1, none⟩ &&
      (t.port 0).session == .down && (t.port 0).intake == [] && (t.port 0).settings == lineOn && tabGet t.lots 0 == none) = true := by
  decide

/-! ### A sound state with a command waiting -/

/-- A wafer with one die tested, an open touchdown whose SITE frame waits, and its ASSIGN still waiting. -/
def sound : State :=
  { (probing [⟨0x13, [7, 3, 1]⟩] [entry 7 .isOpen [(3, 9, 9, none)]] fun w => { w with
      revision := 1
      touchdownsApplied := 1
      bins := tabSet w.bins 1 1
      tested := 1
      passDies := 1
      resultsApplied := 1
      window := { w.window with count := 1, pass := 1, siteResults := tabSet w.window.siteResults 3 1 } }).queueOut 0
      (.assign 0x10 lotName 1 10 10 .best) with
    map := [(0, 0x41)]
    pending := [.site 0] }

theorem test_sound_map : sound.MapLaw := by unfold State.MapLaw; decide
theorem test_sound_held : sound.HeldLaw := by rw [State.heldLaw_iff]; unfold State.HeldBut; decide
theorem test_sound_binding : sound.BindingLaw := by unfold State.BindingLaw Wafer.live; decide
theorem test_sound_block : sound.BlockLaw := by unfold State.BlockLaw; decide
theorem test_sound_lot : sound.LotLaw := by unfold State.LotLaw; decide
theorem test_sound_port : sound.PortLaw := by
  have hr : ∀ p, (sound.port p).rx = .hunt := by decide
  unfold State.PortLaw Port.Law
  simp only [hr, Receiver.Law]
  decide
theorem test_sound_outbound : sound.OutboundLaw := by unfold State.OutboundLaw; decide
theorem test_sound_host : sound.HostLaw := ⟨by decide, by decide, by decide, trivial, by decide, by decide, by decide⟩
theorem test_sound_touchdown : sound.TouchdownLaw := by
  unfold State.TouchdownLaw State.EntryLaw State.SiteLaw; decide
theorem test_sound_count : sound.CountLaw := by unfold State.CountLaw State.cellsWhere State.classSum; decide
theorem test_sound_settings : sound.SettingsLaw :=
  have hd : sound.defaultsPage = .blank := PageBytes.judge_erased _
  have hp : ∀ i, sound.profilePage i = .blank := fun i => (congrArg _ (tabGet_replicate _ i)).trans (PageBytes.judge_erased _)
  ⟨by decide, by decide, by decide, by decide, by rw [hd]; trivial, fun i => by rw [hp]; trivial, fun op h => nomatch h⟩
theorem test_sound_lamp : sound.LampLaw := by intro l; unfold LampState.Law; cases l <;> decide
theorem test_sound_counter : sound.CounterLaw := by unfold State.CounterLaw; decide
theorem test_sound_alarm : sound.AlarmLaw := by
  have h : ∀ i, ∀ w ∈ sound.waferAt i, (∀ src, tabGet w.alarms src = Alarm.cleared) ∧ (tabGet w.alarms runSource).state ≠ .pending ∧
      ∀ j : Fin 8, w.active.watched.length ≤ j.val → tabGet w.alarms (binSource j) = Alarm.cleared := by decide
  exact fun i w hw => ⟨fun src => by rw [(h i w hw).1 src]; rfl, (h i w hw).2⟩
theorem test_sound_window : sound.WindowLaw := by unfold State.WindowLaw; decide

/-- SoundStatesStep and the StepsKeep statements: a sound state whose step answers a next state. -/
theorem test_meets_the_law_statements : sound.Sound ∧ ∃ t, step sound = .next t :=
  ⟨⟨test_sound_map, test_sound_held, test_sound_binding, test_sound_block, test_sound_lot, test_sound_port,
    test_sound_outbound, test_sound_host, test_sound_touchdown, test_sound_count, test_sound_settings, test_sound_lamp, test_sound_counter, test_sound_alarm, test_sound_window⟩, _, rfl⟩


/-! ### A state and operands that meet the hypotheses of each statement

One theorem for each statement with hypotheses, one conjunct for each clause. -/

/-- A state in which port A, UP and ready, finds a frame at the front of its intake queue. -/
theorem found (k : Byte) (bs : List Byte) : (heads (probing [] [] id) k bs).HeadFinds 0 k bs [] ∧
    ((heads (probing [] [] id) k bs).port 0).session = .up ∧ (heads (probing [] [] id) k bs).cellsExist = true :=
  ⟨⟨rfl, (by decide : ([] : List HeadOut).length ≤ 2), (by decide : Session.up ≠ .disabled)⟩, rfl, rfl⟩

/-- A state in which the host line finds a command at the front of its intake queue. -/
theorem asked (k : Byte) (bs : List Byte) : (asks (probing [] [] id) k bs).HostFinds k bs [] ∧
    (asks (probing [] [] id) k bs).cellsExist = true ∧ (asks (probing [] [] id) k bs).resolve 0x10 = some 0 ∧
    (asks (probing [] [] id) k bs).resolve 0x20 = none :=
  ⟨⟨rfl, rfl⟩, rfl, rfl, rfl⟩

theorem test_meets_EmptyQueueLetsAMillisecondPass : State.reset.pending = [] := rfl

theorem test_meets_EveryCommandCompletes : State.reset.cellsExist = true ∧ (∃ t, exec (.touch 0) State.reset = .next t) ∧
    (∀ p, Instr.touch 0 ≠ .lift p) ∧ Instr.touch 0 ≠ .waferClose ∧ Instr.touch 0 ≠ .waferAbandon ∧ Instr.touch 0 ≠ .mapRead :=
  ⟨by decide, ⟨_, rfl⟩, nofun, nofun, nofun, nofun⟩

theorem test_meets_ReceiverActsByItsState :
    ((withA (headUp [])).port 0).session ≠ .disabled ∧ ((withA (headUp [])).port 0).line = .high := by decide

theorem test_meets_WholeFramesReachTheIntake :
    ((withA (headUp [])).port 0).session ≠ .disabled ∧ ((withA (headUp [])).port 0).line = .high ∧
    (Frame.mk 0x12 (List.replicate 250 0)).payload.length ≤ 250 ∧ State.reset.host.line = .high := by decide

/-- A state whose host line is in a phase. -/
def hostLineIn (ph : LinePhase) : State := { State.reset with host := { HostLine.reset with line := ph } }

theorem test_meets_HostReceiverAndBreaks :
    (hostLineIn .high).host.line = .high ∧ (hostLineIn .low).host.line = .low ∧ (hostLineIn .shortTaken).host.line = .shortTaken ∧
    (hostLineIn .longTaken).host.line = .longTaken ∧ (hostLineIn .low).host.line ≠ .high := by decide

theorem test_meets_BreaksClearTheReceiverAndResetTheLink :
    (((withA { headUp [] with line := .shortTaken }).port 0).line = .shortTaken ∧
      ((withA { headUp [] with line := .shortTaken }).port 0).session = .up) ∧
    (((withA { Port.reset with line := .shortTaken }).port 0).line = .shortTaken ∧
      ((withA { Port.reset with line := .shortTaken }).port 0).session ≠ .up) ∧
    ((withA { headUp [] with line := .longTaken }).port 0).line = .longTaken ∧
    ((withA (headUp [])).port 0).line = .high ∧ ((withA { headUp [] with line := .low }).port 0).line = .low ∧
    ((withA { headUp [] with line := .low }).port 0).line ≠ .high ∧ (State.reset.port 0).session = .disabled := by decide

/-- An UP port with two frames waiting and perhaps one in transmission. -/
def sendingA (out : List HeadOut) (now : Option Transmission) : State := withA { headUp [] with outbound := out, sending := now }

theorem test_meets_TransmitterSendsInOrder :
    (((sendingA [.proceed 1, .cancel 2] none).port 0).session ≠ .disabled ∧
      ((sendingA [.proceed 1, .cancel 2] none).port 0).outbound = .proceed 1 :: [.cancel 2] ∧
      ((sendingA [.proceed 1, .cancel 2] none).port 0).sending = none) ∧
    (((sendingA [.proceed 1, .cancel 2] (some ⟨.cancel 3, 2⟩)).port 0).session ≠ .disabled ∧
      ((sendingA [.proceed 1, .cancel 2] (some ⟨.cancel 3, 2⟩)).port 0).outbound = .proceed 1 :: [.cancel 2] ∧
      ((sendingA [.proceed 1, .cancel 2] (some ⟨.cancel 3, 2⟩)).port 0).sending.isSome = true) ∧
    (((sendingA [] (some ⟨.cancel 3, 2⟩)).port 0).sending.isSome = true ∧ ((sendingA [] (some ⟨.cancel 3, 2⟩)).port 0).outbound = []) ∧
    (State.reset.port 0).session = .disabled ∧ (State.reset.port 0).sending = none := by decide

theorem test_meets_TakingAHeadFrame :
    ((heads (probing [] [] id) 0x16 []).HeadFinds 0 0x16 [] [] ∧ ((heads (probing [] [] id) 0x16 []).port 0).session = .up) ∧
    ((heads (probing [] [] id) 0x10 []).HeadFinds 0 0x10 [] [] ∧ ¬(0x11 ≤ (0x10 : Byte).toNat ∧ (0x10 : Byte).toNat ≤ 0x16)) ∧
    ((heads (probing [] [] id) 0x17 []).HeadFinds 0 0x17 [] [] ∧ ¬(0x11 ≤ (0x17 : Byte).toNat ∧ (0x17 : Byte).toNat ≤ 0x16)) ∧
    (0x11 ≤ (0x11 : Byte).toNat ∧ (0x16 : Byte).toNat ≤ 0x16) :=
  ⟨⟨(found _ _).1, (found 0x16 []).2.1⟩, ⟨(found _ _).1, by decide⟩, ⟨(found _ _).1, by decide⟩, by decide⟩

/-- A port LOST with a frame at the front of its intake queue. -/
def lostWith (f : Frame) : State := withA { headUp [f] with session := .lost .brk, silence := none }

theorem test_meets_FramesBeforeASessionAreRefused :
    ((.beat 0, 0x16) ∈ frameCommands 0 ∧ (lostWith ⟨0x16, []⟩).cellsExist = true ∧ (lostWith ⟨0x16, []⟩).HeadFinds 0 0x16 [] [] ∧
      ((lostWith ⟨0x16, []⟩).port 0).session ≠ .up) ∧
    State.reset.cellsExist = true ∧ (State.reset.port 0).session = .disabled :=
  ⟨⟨by decide, by decide, ⟨by decide, by decide, by decide⟩, by decide⟩, by decide, by decide⟩

theorem test_meets_NothingIsTakenOutOfTurn :
    ((Instr.announce 0, 0x11) ∈ (Instr.announce 0, (0x11 : Byte)) :: frameCommands 0 ∧ State.reset.cellsExist = true ∧
      3 ≤ ((sendingA [.cancel 1, .cancel 2, .cancel 3] none).port 0).outbound.length ∧
      (State.reset.port 0).session = .disabled ∧
      ∀ f rest, ((withA (headUp [⟨0x12, []⟩])).port 0).intake = f :: rest → f.kind ≠ 0x11) ∧
    (∀ f rest, ((withA (headUp [⟨0x16, []⟩])).port 0).intake = f :: rest → 0x11 ≤ f.kind.toNat ∧ f.kind.toNat ≤ 0x16) ∧
    ((.status, 0x41) ∈ hostCommands ∧ ({ State.reset with host := { HostLine.reset with reply := some ⟨⟨0xC1, [0]⟩, false⟩ } }).host.reply.isSome = true ∧
      ∀ f rest, (asks State.reset 0x42 []).host.intake = f :: rest → f.kind ≠ 0x41) ∧
    ∀ f rest, (asks State.reset 0x42 []).host.intake = f :: rest → ∃ c, (c, f.kind) ∈ hostCommands := by
  refine ⟨⟨by decide, by decide, by decide, by decide, ?_⟩, ?_, ⟨by decide, by decide, ?_⟩, ?_⟩
  · intro f rest h; cases h; decide
  · intro f rest h; cases h; decide
  · intro f rest h; cases h; decide
  · intro f rest h; cases h; exact ⟨.headSet, by decide⟩

theorem test_meets_MalformedHeadFramesAreRefused :
    ((heads (probing [] [] id) 0x12 [0x10, 7]).HeadFinds 0 0x12 [0x10, 7] [] ∧ [0x10, 7].length < 3) ∧
    ((heads (probing [] [] id) 0x12 [0x10, 7, 1]).HeadFinds 0 0x12 [0x10, 7, 1] [] ∧
      ([0x10, 7, 1] : List Byte).length ≠ 3 + 5 * (([0x10, 7, 1] : List Byte).getD 2 0).toNat) ∧
    ((heads (probing [] [] id) 0x14 []).HeadFinds 0 0x14 [] [] ∧ ([] : List Byte).length ≠ 1) ∧
    ((heads (probing [] [] id) 0x15 [1, 2]).HeadFinds 0 0x15 [1, 2] [] ∧ ([1, 2] : List Byte).length ≠ 1) ∧
    ((heads (probing [] [] id) 0x11 [0, 0, 0, 0, 17]).HeadFinds 0 0x11 [0, 0, 0, 0, 17] [] ∧
      16 < (([0, 0, 0, 0, 17] : List Byte).getD 4 0).toNat) ∧
    (heads (probing [] [] id) 0x11 [0, 0, 0, 0]).HeadFinds 0 0x11 [0, 0, 0, 0] [] :=
  ⟨⟨(found _ _).1, by decide⟩, ⟨(found _ _).1, by decide⟩, ⟨(found _ _).1, by decide⟩, ⟨(found _ _).1, by decide⟩,
    ⟨(found _ _).1, by decide⟩, (found _ _).1⟩

theorem test_meets_TouchesAreJudgedInOrder :
    touchFits (List.replicate 49 ⟨255, 65535, 65535⟩) ∧
    (heads (probing [] [] id) 0x12 (touchPayload 0x10 7 (List.replicate 49 ⟨255, 65535, 65535⟩))).HeadFinds 0 0x12
      (touchPayload 0x10 7 (List.replicate 49 ⟨255, 65535, 65535⟩)) [] ∧
    ((heads (probing [] [] id) 0x12 (touchPayload 0x10 7 (List.replicate 49 ⟨255, 65535, 65535⟩))).port 0).session = .up :=
  ⟨by unfold touchFits; decide, (found _ _).1, (found _ _).2.1⟩

theorem test_meets_SitesStoreTheirResults :
    ((heads (probing [] [] id) 0x13 [7]).HeadFinds 0 0x13 [7] [] ∧ ([7] : List Byte).length ≠ 3) ∧
    (heads (probing [] [] id) 0x13 [7, 3, 1]).HeadFinds 0 0x13 [7, 3, 1] [] ∧
    ((heads (probing [] [] id) 0x13 [7, 3, 1]).port 0).session = .up :=
  ⟨⟨(found _ _).1, by decide⟩, (found _ _).1, (found _ _).2.1⟩

theorem test_meets_LiftsSealAndTheFrontIsApplied :
    (heads (probing [] [] id) 0x14 [7]).cellsExist = true ∧ (heads (probing [] [] id) 0x14 [7]).HeadFinds 0 0x14 [7] [] ∧
    ((heads (probing [] [] id) 0x14 [7]).port 0).session = .up :=
  ⟨(found _ _).2.2, (found _ _).1, (found _ _).2.1⟩

theorem test_meets_EntriesAreAppliedWhole :
    ((entry 7 .isSealed [(3, 9, 9, none), (1, 0, 0, some 5)]).sites.map (·.number)).Nodup ∧
    sound.resolve (entry 7 .isSealed []).handle = some 0 ∧ (sound.waferAt 0).isSome = true := by decide

theorem test_meets_SitesAreAppliedByResultAndCell :
    (sound.waferAt 0).isSome = true ∧ (some (5 : Bin) = some 5 ∧ (5 : Bin) ≠ 0) ∧ cellCount 0x00 = 0 ∧ cellCount 0x41 = 1 ∧
    cellCount 0x81 = 2 ∧ cellCount 0xC1 = 3 ∧ sound.binClass 1 = .pass ∧ sound.binClass 2 = .fail ∧
    (sound.binClass 2 = sound.binClass 63 ∧ (2 : Bin) ≤ 63) ∧ mapWf sound.map := by decide

theorem test_meets_AppliedResultsAreFedInOrder : (sound.waferAt 0).isSome = true := by decide

theorem test_meets_VerdictsFollowTheirLimits :
    ({ profileV with watched := List.replicate 8 ⟨7, 3, 6⟩ }).watched.length ≤ 8 := by decide

theorem test_meets_AlarmChangesAreReported : (sound.waferAt 0).isSome = true ∧ (sound.waferAt 0).bind (·.boundPort) = some 0 := by decide

/-- A wafer whose RUN record holds, on a port that is HELD or not. -/
def holding (held : Bool) (a : Alarm) : State :=
  (probing [] [] fun w => { w with alarms := tabSet w.alarms 1 a }).withPort 0 fun q => { q with held := held }

theorem test_meets_HeldChangesAreReported :
    (holding true (Alarm.raisedHold false)).heldBy 0 = ((holding true (Alarm.raisedHold false)).port 0).held ∧
    ((holding false (Alarm.raisedHold false)).heldBy 0 = true ∧ ((holding false (Alarm.raisedHold false)).port 0).held = false) ∧
    ((holding false (Alarm.raisedHold false)).resolve 0x10 = some 0 ∧
      ((holding false (Alarm.raisedHold false)).waferAt 0).any (fun w => (tabGet w.alarms 1).holds && !(tabGet w.alarms 0).holds)) ∧
    ((holding true Alarm.cleared).heldBy 0 = false ∧ ((holding true Alarm.cleared).port 0).held = true) := by decide

/-- A wafer with a staged profile of one watched entry. -/
def stagedWafer : State := probing [] [] fun w => { w with staged := some ⟨profileV, 0xFE⟩ }

theorem test_meets_WindowsCloseInOrder :
    (sound.waferAt 0).any (fun w => w.staged == none) ∧
    (stagedWafer.waferAt 0).any (fun w => w.staged == some ⟨profileV, 0xFE⟩ && w.boundPort == some 0) := by decide

theorem test_meets_UnloadsCloseOrDrain :
    (heads (probing [] [] id) 0x15 [0x10]).HeadFinds 0 0x15 [0x10] [] ∧ ((heads (probing [] [] id) 0x15 [0x10]).port 0).session = .up :=
  ⟨(found _ _).1, (found _ _).2.1⟩

theorem test_meets_WafersEndInOrder :
    (sound.waferAt 0).any (fun w => w.boundPort == some 0 && w.lotEntry == some 0) ∧ (tabGet sound.lots 0).isSome = true := by decide

theorem test_meets_AnnouncesOpenASession :
    ((heads (probing [] [] id) 0x11 [0, 0, 0, 9, 1]).HeadFinds 0 0x11 ([0, 0, 0, 9, 1] ++ (none : Option Byte).toList) [] ∧
      1 ≤ (1 : Byte).toNat) ∧
    (heads (probing [] [] id) 0x11 [0, 0, 0, 9, 16, 0x10]).HeadFinds 0 0x11 ([0, 0, 0, 9, 16] ++ (some (0x10 : Byte)).toList) [] ∧
      (16 : Byte).toNat ≤ 16 :=
  ⟨⟨(found _ _).1, by decide⟩, (found _ _).1, by decide⟩

/-- A frame waits, the silence timer has run out, and the reload mask is `m`. -/
def expiring (m : BitVec 5) (k : Byte) : State :=
  (silent (heads (probing [] [] id) k [])).withPort 0 fun q => { q with settings := { q.settings with mask := m } }

theorem expiring_finds (m : BitVec 5) (k : Byte) : (expiring m k).HeadFinds 0 k [] [] ∧
    ((expiring m k).port 0).session = .up ∧ ((expiring m k).port 0).silence = some 0 ∧ ((expiring m k).port 0).settings.mask = m :=
  ⟨⟨rfl, (by decide : ([] : List HeadOut).length ≤ 2), (by decide : Session.up ≠ .disabled)⟩, rfl, rfl, rfl⟩

theorem test_meets_LossesTakeTheirSteps :
    (((silent sound).port 0).session = .up ∧ ((silent sound).port 0).silence = some 0) ∧
    ((State.reset.port 0).session ≠ .up ∧ (sound.port 0).silence ≠ some 0) ∧
    ((∃ t, exec (.announce 0) (expiring 0 0x11) = .next t) ∧ (∃ t, exec (.beat 0) (expiring 31 0x16) = .next t) ∧
      (∃ t, exec (.beat 0) (expiring 15 0x16) = .next t) ∧ (.beat 0, 0x16) ∈ frameCommands 0 ∧
      (31 : BitVec 5).getLsbD 4 = true ∧ (15 : BitVec 5).getLsbD 4 = false) ∧
    ((asks (probing [] [] id) 0x44 [BitVec.ofNat 8 (0 : PortId).val]).HostFinds 0x44 [BitVec.ofNat 8 (0 : PortId).val] [] ∧
      ((asks (probing [] [] id) 0x44 [0]).port 0).session = .up) ∧
    ((asks State.reset 0x44 [BitVec.ofNat 8 (3 : PortId).val]).HostFinds 0x44 [BitVec.ofNat 8 (3 : PortId).val] [] ∧
      ((asks State.reset 0x44 [3]).port 3).session ≠ .up) ∧
    ∀ i, (sound.waferAt i).map (fun w : Wafer => (w.state, w.boundPort)) ≠ some (WaferState.draining, some 0) :=
  ⟨by decide, by decide, ⟨⟨_, rfl⟩, ⟨_, rfl⟩, ⟨_, rfl⟩, by decide, by decide, by decide⟩, ⟨(asked _ _).1, by decide⟩,
    ⟨⟨rfl, rfl⟩, by decide⟩, by decide⟩

theorem test_meets_LampsShowTheirConditions :
    sound.lampTable = ⟨⟨.red, .steady⟩, ⟨.amber, .steady⟩, ⟨.amber, .blinkOne⟩, ⟨.green, .steady⟩, ⟨.green, .blinkQuarter⟩⟩ := by decide

theorem test_meets_PageOperationsStart :
    (asks (probing [] [] id) 0x5E [7]).HostFinds 0x5E [7] [] ∧
    (profileV.accepted = true ∧ (asks (probing [] [] id) 0x5D (1 :: profileV.image)).HostFinds 0x5D (1 :: profileV.image) []) ∧
    ∀ b : Byte, (asks (probing [] [] id) 0x5D (b :: { profileV with window := 15 }.image)).HostFinds 0x5D
        (b :: { profileV with window := 15 }.image) [] ∧
      imageLengthOk (b :: { profileV with window := 15 }.image) = true ∧
      (readProfile (b :: { profileV with window := 15 }.image) 1).accepted = false :=
  ⟨(asked _ _).1, ⟨by decide, (asked _ _).1⟩, fun b => ⟨(asked _ _).1, rfl, rfl⟩⟩

/-- A state with a page operation in flight. -/
def inFlight (j : PageJob) : State := { State.reset with pageOp := some ⟨j, 0⟩ }

theorem test_meets_PageOperationsComplete :
    profileV.image.length ≤ 255 ∧ profileV.accepted = true ∧
    Defaults.Law ⟨factoryBins, factoryLampTable, Vector.replicate 4 factoryLine, true, profileV⟩ ∧
    (inFlight (.erase .defaults)).pageOp = some ⟨.erase .defaults, 0⟩ ∧
    (∀ bytes, (inFlight (.program .defaults bytes)).pageOp = some ⟨.program .defaults bytes, 0⟩ ∧
      (inFlight (.program (.profile 5) bytes)).pageOp = some ⟨.program (.profile 5) bytes, 0⟩) ∧ State.reset.pageOp = none :=
  ⟨by decide, by decide, ⟨by decide, by decide, by decide⟩, rfl, fun _ => ⟨rfl, rfl⟩, rfl⟩

theorem test_meets_PartResetKeepsTheSettings : (asks (probing [] [] id) 0x5F []).HostFinds 0x5F [] [] := (asked _ _).1

/-- A state with a reply waiting or in transmission. -/
def replying (r : Option Reply) : State := { State.reset with host := { HostLine.reset with reply := r } }

theorem test_meets_RepliesAreSentWhileReady :
    (replying (some ⟨⟨0xC1, [0]⟩, false⟩)).host.reply = some ⟨⟨0xC1, [0]⟩, false⟩ ∧
    (replying (some ⟨⟨0xC1, [0]⟩, true⟩)).host.reply = some ⟨⟨0xC1, [0]⟩, true⟩ ∧ (replying none).host.reply = none :=
  ⟨rfl, rfl, rfl⟩

/-- Every host command has a payload of none of its lengths (RefusesLength, in every statement that uses it). -/
theorem test_meets_RefusesLength : ∀ c ∈ hostCommands, wrongLength c.2 [0, 0, 0] := by
  unfold hostCommands wrongLength; decide

theorem test_meets_RefusalsChangeNothing :
    (.status, 0x41) ∈ hostCommands ∧ (asks (probing [] [] id) 0x5B []).HostFinds 0x5B [] [] ∧ (∀ c, (c, 0x5B) ∉ hostCommands) :=
  ⟨by decide, (asked _ _).1, fun c h => by
    have : (0x5B : Byte) ∈ hostCommands.map (·.2) := List.mem_map_of_mem h
    revert this; decide⟩

theorem test_meets_WaferReadsAnswerTheRecord :
    ((Instr.waferBins, 0x53) ∈ [(Instr.waferRead, (0x4D : Byte)), (.waferBins, 0x53), (.alarmsRead, 0x4F), (.limitsRead, 0x51)] ∧
      (asks (probing [] [] id) 0x53 [0x20]).HostFinds 0x53 [0x20] [] ∧ (asks (probing [] [] id) 0x53 [0x20]).resolve 0x20 = none) ∧
    ((asks (probing [] [] id) 0x4D [0x10]).resolve 0x10 = some 0 ∧ ((asks (probing [] [] id) 0x4D [0x10]).waferAt 0).isSome = true ∧
      (asks (probing [] [] id) 0x4D [0x10]).HostFinds 0x4D [0x10] []) :=
  ⟨⟨by decide, (asked _ _).1, (asked 0x53 [0x20]).2.2.2⟩, (asked 0x4D [0x10]).2.2.1, by decide, (asked _ _).1⟩

theorem test_meets_MapReadsAnswerTheCells :
    (asks (probing [] [] id) 0x4E [0x10, 0, 0, 99, 1]).cellsExist = true ∧
    (asks (probing [] [] id) 0x4E [0x10, 0, 0, 99, 1]).HostFinds 0x4E [0x10, 0, 0, 99, 1] [] :=
  ⟨(asked _ _).2.1, (asked _ _).1⟩

theorem test_meets_TableReadsAnswerTheTables :
    (asks (probing [] [] id) 0x55 []).HostFinds 0x55 [] [] ∧ (asks (probing [] [] id) 0x40 []).HostFinds 0x40 [] [] ∧
    (asks (probing [] [] id) 0x58 [0]).HostFinds 0x58 [0] [] ∧ (asks (probing [] [] id) 0x5C [0]).HostFinds 0x5C [0] [] :=
  ⟨(asked _ _).1, (asked _ _).1, (asked _ _).1, (asked _ _).1⟩

theorem test_meets_StatusReadsClearTheirCounters :
    (asks (probing [] [] id) 0x41 []).HostFinds 0x41 [] [] ∧
    ((asks (probing [] [] id) 0x43 [4]).HostFinds 0x43 [4] [] ∧ 3 < (4 : Byte).toNat) ∧
    (asks (probing [] [] id) 0x43 [BitVec.ofNat 8 (3 : PortId).val]).HostFinds 0x43 [BitVec.ofNat 8 (3 : PortId).val] [] :=
  ⟨(asked _ _).1, ⟨(asked _ _).1, by decide⟩, (asked _ _).1⟩

theorem test_meets_HeadSetActsBySession :
    (3 < (4 : Byte).toNat ∧ ([0, 2, 0, 1, 31] : List Byte).length = 5 ∧
      (asks (probing [] [] id) 0x42 (4 :: [0, 2, 0, 1, 31])).HostFinds 0x42 (4 :: [0, 2, 0, 1, 31]) [] ∧
      (asks (probing [] [] id) 0x44 [4]).HostFinds 0x44 [4] []) ∧
    ((asks (probing [] [] id) 0x42 [BitVec.ofNat 8 (0 : PortId).val, 15, 255, 1, 255, 31]).HostFinds 0x42
        [BitVec.ofNat 8 (0 : PortId).val, 15, 255, 1, 255, 31] [] ∧
      15 * 256 + 255 ≤ 4095 ∧ (1 : Byte).toNat ≤ 1 ∧ (31 : Byte).toNat ≤ 31) ∧
    (4095 < 16 * 256 + 0 ∧ 1 < (2 : Byte).toNat ∧ 31 < (32 : Byte).toNat) :=
  ⟨⟨by decide, by decide, (asked _ _).1, (asked _ _).1⟩, ⟨(asked _ _).1, by decide, by decide, by decide⟩, by decide⟩

theorem test_meets_WaferOpensAreJudgedInOrder :
    ((asks (probing [] [] id) 0x48 (openPayload { gridArgs with rows := 1025 })).HostFinds 0x48
        (openPayload { gridArgs with rows := 1025 }) [] ∧
      (openPayload { gridArgs with rows := 1025 }).length = 20 ∧ 1024 < read2 (openPayload { gridArgs with rows := 1025 }) 14) ∧
    (openArgsOk { gridArgs with rows := 1024, columns := 256 } ∧
      (asks (probing [] [] id) 0x48 (openPayload { gridArgs with rows := 1024, columns := 256 })).HostFinds 0x48
        (openPayload { gridArgs with rows := 1024, columns := 256 }) []) :=
  ⟨⟨(asked _ _).1, by decide, by decide⟩, by unfold openArgsOk; decide, (asked _ _).1⟩

theorem test_meets_PlacementAndLotsFollowTheirRules :
    262144 ∈ [16384, 32768, 65536, 131072, 262144] ∧
    (∀ j k, ∀ d ∈ tabGet sound.lots j, ∀ e ∈ tabGet sound.lots k, d.lotText = e.lotText → j = k) ∧
    (∃ e ∈ tabGet sound.lots 0, e.lotText = lotName ∧ e.opened < 16777215) ∧
    (∃ e ∈ tabGet (tabSet sound.lots 0 (some { Lot.fresh lotName with opened := 16777215 })) 0,
      e.lotText = lotName ∧ e.opened = 16777215) ∧
    ((∀ j, ∀ e ∈ tabGet sound.lots j, e.lotText ≠ []) ∧ tabGet sound.lots 1 = none ∧ ∀ j < (1 : LotId), tabGet sound.lots j ≠ none) ∧
    ∀ j, ∃ e ∈ tabGet (Vector.ofFn fun l : LotId => some (Lot.fresh [BitVec.ofNat 8 l.val])) j, e.lotText ≠ lotName := by
  decide

theorem test_meets_HostEndingsVoidCancelAndEnd :
    ((Instr.waferClose, 0x49) ∈ [(Instr.waferClose, (0x49 : Byte)), (.waferAbandon, 0x4A)] ∧
      (asks (probing [] [] id) 0x49 [0x20]).cellsExist = true ∧ (asks (probing [] [] id) 0x49 [0x20]).HostFinds 0x49 [0x20] [] ∧
      (asks (probing [] [] id) 0x49 [0x20]).resolve 0x20 = none) ∧
    ((asks (probing [] [] id) 0x49 [0x10]).resolve 0x10 = some 0 ∧
      ((asks (probing [] [] id) 0x49 [0x10]).waferAt 0).any (fun w => w.state.isBound && w.boundPort == some 0)) ∧
    ((asks (probing [] [] (·.close .forced)) 0x49 [0x10]).resolve 0x10 = some 0 ∧
      ((asks (probing [] [] (·.close .forced)) 0x49 [0x10]).waferAt 0).any fun w => w.state == .closed) ∧
    ((asks (probing [] [] fun w => { w with boundPort := none }) 0x49 [0x10]).resolve 0x10 = some 0 ∧
      ((asks (probing [] [] fun w => { w with boundPort := none }) 0x49 [0x10]).waferAt 0).any fun w =>
        w.state.isBound && w.boundPort == none) :=
  ⟨⟨by decide, (asked _ _).2.1, (asked _ _).1, (asked 0x49 [0x20]).2.2.2⟩, by decide, by decide, by decide⟩

theorem test_meets_ResumesRebindAndDiscardsFree :
    (asks (probing [] [] id) 0x4B [0x10, 0]).HostFinds 0x4B [0x10, 0] [] ∧ (asks (probing [] [] id) 0x4C [0x10]).HostFinds 0x4C [0x10] [] :=
  ⟨(asked _ _).1, (asked _ _).1⟩

theorem test_meets_StagingAndReleasing :
    (profileV.accepted = true ∧ (asks (probing [] [] id) 0x50 (0x10 :: profileV.image)).HostFinds 0x50 (0x10 :: profileV.image) []) ∧
    (asks (probing [] [] id) 0x50 [0x10, 0xFF]).HostFinds 0x50 [0x10, 0xFF] [] ∧
    (asks (probing [] [] id) 0x50 [0x10, BitVec.ofNat 8 ((5 : Fin 6).val + 2)]).HostFinds 0x50
      [0x10, BitVec.ofNat 8 ((5 : Fin 6).val + 2)] [] ∧
    ((asks (probing [] [] id) 0x50 [0x10, 1]).HostFinds 0x50 [0x10, 1] [] ∧ (1 : Byte).toNat < 2) ∧
    ((asks (probing [] [] id) 0x50 [0x10, 8]).HostFinds 0x50 [0x10, 8] [] ∧ 7 < (8 : Byte).toNat ∧ (8 : Byte) ≠ 0xFF) ∧
    ((asks (probing [] [] id) 0x50 (0x10 :: { profileV with window := 15 }.image)).HostFinds 0x50
        (0x10 :: { profileV with window := 15 }.image) [] ∧
      (0x10 :: { profileV with window := 15 }.image).length ≠ 2 ∧ imageLengthOk (0x10 :: { profileV with window := 15 }.image) = true ∧
      (readProfile (0x10 :: { profileV with window := 15 }.image) 1).accepted = false) ∧
    ((asks (probing [] [] id) 0x52 [0x20]).HostFinds 0x52 [0x20] [] ∧ (asks (probing [] [] id) 0x52 [0x20]).resolve 0x20 = none) ∧
    ((asks (probing [] [] id) 0x52 [0x10]).HostFinds 0x52 [0x10] [] ∧ (asks (probing [] [] id) 0x52 [0x10]).resolve 0x10 = some 0 ∧
      ((asks (probing [] [] id) 0x52 [0x10]).waferAt 0).isSome = true) :=
  ⟨⟨by decide, (asked _ _).1⟩, (asked _ _).1, (asked _ _).1, ⟨(asked _ _).1, by decide⟩, ⟨(asked _ _).1, by decide, by decide⟩,
    ⟨(asked _ _).1, by decide, by decide, by decide⟩, ⟨(asked _ _).1, (asked 0x52 [0x20]).2.2.2⟩, (asked _ _).1, (asked 0x52 [0x10]).2.2.1,
    by decide⟩

theorem test_meets_TableWritesReplaceTheTable :
    ((asks State.reset 0x54 (List.replicate 64 0)).HostFinds 0x54 (List.replicate 64 0) [] ∧ (List.replicate 64 (0 : Byte)).length = 64) ∧
    (asks State.reset 0x56 factoryLampTable.chars).HostFinds 0x56 factoryLampTable.chars [] ∧
    ((asks State.reset 0x56 (4 :: List.replicate 9 0)).HostFinds 0x56 (4 :: List.replicate 9 0) [] ∧
      (4 :: List.replicate 9 (0 : Byte)).length = 10 ∧ ∃ i < 5, 3 < ((4 :: List.replicate 9 (0 : Byte)).getD (2 * i) 0).toNat) ∧
    ((asks State.reset 0x56 (List.replicate 9 0 ++ [6])).HostFinds 0x56 (List.replicate 9 0 ++ [6]) [] ∧
      ∃ i < 5, 5 < ((List.replicate 9 (0 : Byte) ++ [6]).getD (2 * i + 1) 0).toNat) ∧
    (asks State.reset 0x57 [2]).HostFinds 0x57 [2] [] :=
  ⟨⟨⟨rfl, rfl⟩, by decide⟩, ⟨rfl, rfl⟩, ⟨⟨rfl, rfl⟩, by decide, by decide⟩, ⟨⟨rfl, rfl⟩, by decide⟩, rfl, rfl⟩

theorem test_meets_LotEndFreesTheEntry : (asks (probing [] [] id) 0x59 [0]).HostFinds 0x59 [0] [] := (asked _ _).1

theorem test_meets_NoticesAreQueuedAndFetched :
    State.reset.notices.length < 32 ∧ 32 ≤ ({ State.reset with notices := List.replicate 32 (.linkFault 0) }).notices.length ∧
    (asks (probing [] [] id) 0x5A []).HostFinds 0x5A [] [] :=
  ⟨by decide, by decide, (asked _ _).1⟩

end Sys2Proof.Tests
end

section
/-! PROOFS. What every operation on the wafers keeps: the queue of waiting commands, and the laws of the map, of the
blocks and of the settings, as one preorder between states. -/
namespace Sys2Proof.Machine

/-! ### Cells (Table 9-5) -/

theorem cellCount_mkCell {n : Nat} (h : n < 4) (b : Bin) : cellCount (mkCell n b) = n := by
  have := b.isLt
  simp only [cellCount, mkCell, BitVec.toNat_ofNat]
  omega

theorem cellBin_mkCell (n : Nat) (b : Bin) : cellBin (mkCell n b) = b := by
  have := b.isLt
  apply Fin.ext
  simp only [cellBin, mkCell, BitVec.toNat_ofNat, Fin.val_ofNat]
  omega

/-- A cell that is not untested stands in the list with what it reads. -/
theorem mapRead_mem {a : Nat} {m : List Host.Cell} (h : mapRead a m ≠ 0) : (a, mapRead a m) ∈ m := by
  induction m with
  | nil => exact absurd rfl h
  | cons c m ih =>
    unfold mapRead at h ⊢
    split at h
    · next e => rw [if_pos e, ← e]; exact List.mem_cons_self
    · next e => rw [if_neg e]; exact List.mem_cons_of_mem _ (ih h)

/-- The bin a retest keeps is the cell's or the result's (R73 to R75). -/
theorem keptBin_eq_or (pol : Policy) (cls : Bin → BinClass) (b r : Bin) :
    keptBin pol cls b r = b ∨ keptBin pol cls b r = r := by
  cases pol with
  | first => exact .inl rfl
  | last => exact .inr rfl
  | best =>
    show betterBin cls b r = b ∨ betterBin cls b r = r
    unfold betterBin
    split
    · exact .inl rfl
    · split
      · exact .inr rfl
      · split
        · exact .inr rfl
        · exact .inl rfl

/-- A tested cell holds a bin other than 0. -/
theorem State.MapLaw.cellBin_ne {s : State} (h : s.MapLaw) {a : Nat} (hc : cellCount (mapRead a s.map) ≠ 0) :
    cellBin (mapRead a s.map) ≠ 0 := by
  refine (h.2 _ (mapRead_mem fun e => hc ?_)).2
  rw [e]; rfl

/-- Writing a tested cell of the store keeps the law of the map. -/
theorem State.MapLaw.write {s t : State} (h : s.MapLaw) {a : Nat} {n : Nat} {b : Bin} (ha : a < storeCells)
    (hn : n < 4) (h0 : n ≠ 0) (hb : b ≠ 0) (e : t.map = mapWrite a (mkCell n b) s.map) : t.MapLaw := by
  refine ⟨e ▸ mapWf_mapWrite ha h.1, fun c hc => ?_⟩
  rw [e] at hc
  rcases mem_mapWrite hc with ⟨rfl, -⟩ | hc
  · exact ⟨by rw [cellCount_mkCell hn]; exact h0, by rw [cellBin_mkCell]; exact hb⟩
  · exact h.2 c hc

/-! ### Where wafers lie (R7, R8) -/

/-- A state whose every wafer lies where one of a lawful state lies has lawful blocks. -/
theorem State.BlockLaw.back {s t : State} (h : s.BlockLaw)
    (hw : ∀ i w', t.waferAt i = some w' → ∃ w, s.waferAt i = some w ∧ w'.place = w.place) : t.BlockLaw := by
  have geometry : ∀ {w' w : Wafer}, w'.place = w.place →
      w'.rows = w.rows ∧ w'.columns = w.columns ∧ w'.base = w.base ∧ w'.size = w.size := by
    intro w' w e
    simp only [Wafer.place, Prod.mk.injEq] at e
    obtain ⟨-, ⟨hr, hc⟩, ⟨hb, hs⟩, -⟩ := e
    exact ⟨hr, hc, hb, hs⟩
  refine ⟨fun i w' hi => ?_, fun i j hij v' hv w' hw' => ?_⟩
  · obtain ⟨w, hi, e⟩ := hw i w' hi
    obtain ⟨hr, hc, hb, hs⟩ := geometry e
    rw [hr, hc, hb, hs]
    exact h.1 i w hi
  · obtain ⟨v, hv, ev⟩ := hw i v' hv
    obtain ⟨w, hw', ew⟩ := hw j w' hw'
    obtain ⟨-, -, hvb, hvs⟩ := geometry ev
    obtain ⟨-, -, hwb, hws⟩ := geometry ew
    rw [hvb, hvs, hwb, hws]
    exact h.2 i j hij v hv w hw'

theorem Wafer.cellAddress_place {w' w : Wafer} (h : w'.place = w.place) (column row : Nat) :
    w'.cellAddress column row = w.cellAddress column row := by
  simp only [Wafer.place, Prod.mk.injEq] at h
  obtain ⟨-, ⟨-, hc⟩, ⟨hb, -⟩, -⟩ := h
  unfold Wafer.cellAddress
  rw [hc, hb]

/-- Every site of an entry lies in the store, where the entry names a wafer. -/
def State.EntryFits (s : State) (e : Entry) : Prop :=
  ∀ i w, s.resolve e.handle = some i → s.waferAt i = some w → ∀ d ∈ e.sites, w.cellAddress d.column d.row < storeCells

theorem State.EntryFits.work {s t : State} {e : Entry} (h : s.EntryFits e) (k : s.WorkFrame t) : t.EntryFits e := by
  intro i w' hr hw' d hd
  obtain ⟨w, hw, hp⟩ := k.waferAt_back hw'
  rw [Wafer.cellAddress_place hp]
  exact h i w (k.resolve _ ▸ hr) hw d hd

/-- Which cells must exist for no command to stop (log 13). -/
theorem State.cellsExist_iff (s : State) : s.cellsExist = true ↔
    (∀ i, ∀ w ∈ s.waferAt i, w.base + w.rows * w.columns ≤ storeCells) ∧
    ∀ p, ∀ e ∈ (s.port p).touchdowns, s.EntryFits e := by
  unfold State.cellsExist
  rw [Bool.and_eq_true, tabList_all, tabList_all]
  refine and_congr (forall_congr' fun i => ?_) (forall_congr' fun p => ?_)
  · rw [Option.all_eq_true]
    exact forall_congr' fun w => by simp [State.waferAt]
  · rw [List.all_eq_true]
    refine forall_congr' fun e => imp_congr_right fun _ => ?_
    unfold State.EntryFits
    cases hr : s.resolve e.handle with
    | none => simp
    | some i =>
      simp only [Option.bind_some, Option.some.injEq]
      constructor
      · rintro h _ w rfl hw d hd
        rw [hw] at h
        exact of_decide_eq_true (List.all_eq_true.mp h d hd)
      · intro h
        cases hw : s.waferAt i with
        | none => rfl
        | some w => exact List.all_eq_true.mpr fun d hd => by simpa using h i w rfl hw d hd

/-! ### Pages are judged by what they hold (R177) -/

theorem PageBytes.judge_holds {α : Type} {contents : List Byte → Option α} {P : α → Prop}
    (h : ∀ bs c, contents bs = some c → P c) (v : PageBytes) : (v.judge contents).holds P := by
  unfold PageBytes.judge
  split
  · exact trivial
  · split
    · exact trivial
    · split
      · split
        · next hc => exact h _ _ hc
        · exact trivial
      · exact trivial

theorem State.defaultsPage_holds (s : State) : s.defaultsPage.holds Defaults.Law :=
  PageBytes.judge_holds (fun _ _ h => storedDefaults_inRange h) _

theorem State.profilePage_holds (s : State) (i : Fin 6) : (s.profilePage i).holds fun p => p.accepted = true :=
  PageBytes.judge_holds (fun _ _ h => storedProfile_accepted h) _

/-! ### The laws of the store and of the settings together -/

/-- The active profile is accepted, and the staged one where there is one (R87, R88). -/
def Wafer.ProfilesOk (w : Wafer) : Prop := w.active.accepted = true ∧ ∀ st ∈ w.staged, st.profile.accepted = true

/-- The operation in flight has its time or less to run, programs a VALID page, and has left nothing of its
page's former contents (R179 to R181). -/
def State.JobLaw (s : State) : Prop :=
  ∀ op ∈ s.pageOp, op.job.Law ∧ op.remaining ≤ op.job.duration ∧ s.pageBytes op.job.page = PageBytes.lost

/-- The laws of the map, of the blocks and of the settings. -/
structure State.StoreLaw (s : State) : Prop where
  map : s.MapLaw
  block : s.BlockLaw
  bin0 : tabGet s.bins 0 = .unused
  divisor : ∀ p, (s.port p).settings.divisor ≤ 4095
  defaultProfile : s.defaultProfile.accepted = true
  profiles : ∀ i, ∀ w ∈ s.waferAt i, w.ProfilesOk
  job : s.JobLaw

theorem State.storeLaw_iff (s : State) : s.StoreLaw ↔ s.MapLaw ∧ s.BlockLaw ∧ s.SettingsLaw := by
  constructor
  · intro h
    exact ⟨h.map, h.block, h.bin0, h.divisor, h.defaultProfile, h.profiles, s.defaultsPage_holds,
      s.profilePage_holds, h.job⟩
  · rintro ⟨hm, hb, h0, hd, hp, hw, -, -, hj⟩
    exact ⟨hm, hb, h0, hd, hp, hw, hj⟩

/-- What every command keeps: the queue of waiting commands, and the laws of the store and the settings. -/
structure State.KeepsStore (s t : State) : Prop where
  pending : t.pending = s.pending
  law : s.StoreLaw → t.StoreLaw

theorem State.KeepsStore.refl (s : State) : s.KeepsStore s := ⟨rfl, id⟩

theorem State.KeepsStore.trans {s t u : State} (h : s.KeepsStore t) (k : t.KeepsStore u) : s.KeepsStore u :=
  ⟨k.pending.trans h.pending, fun l => k.law (h.law l)⟩

theorem State.KeepsStore.foldl {α : Type} {f : State → α → State} (hf : ∀ (s : State) x, s.KeepsStore (f s x))
    (xs : List α) : ∀ s : State, s.KeepsStore (xs.foldl f s) := by
  induction xs with
  | nil => exact fun s => .refl s
  | cons x xs ih => exact fun s => (hf s x).trans (ih (f s x))

theorem State.JobLaw.same {s t : State} (h : s.JobLaw) (h1 : t.page1 = s.page1) (h2 : t.profilePages = s.profilePages)
    (ho : t.pageOp = s.pageOp) : t.JobLaw := by
  intro op hop
  rw [ho] at hop
  obtain ⟨hl, hr, hb⟩ := h op hop
  refine ⟨hl, hr, hb ▸ ?_⟩
  cases op.job.page with
  | defaults => exact h1
  | profile i => exact congrArg (tabGet · i) h2

/-- The part of the state that the laws of the store and the settings read. -/
def State.lawful (s : State) : (List Host.Cell × Vector BinClass 64 × Vector Slot 12 × Vector Port 4) ×
    Profile × PageBytes × Vector PageBytes 6 × Option PageOp :=
  ((s.map, s.bins, s.slots, s.ports), s.defaultProfile, s.page1, s.profilePages, s.pageOp)

theorem State.StoreLaw.same {s t : State} (h : s.StoreLaw) (e : t.lawful = s.lawful) : t.StoreLaw := by
  simp only [State.lawful, Prod.mk.injEq] at e
  obtain ⟨⟨hm, hb, hs, hp⟩, hd, h1, h2, ho⟩ := e
  have slot : ∀ i, t.waferAt i = s.waferAt i := fun i => by rw [State.waferAt, hs]; rfl
  have port : ∀ p, t.port p = s.port p := fun p => by rw [State.port, hp]; rfl
  exact ⟨by rw [State.MapLaw, hm]; exact h.map, h.block.back fun i w hw => ⟨w, slot i ▸ hw, rfl⟩,
    by rw [hb]; exact h.bin0, fun p => port p ▸ h.divisor p, hd ▸ h.defaultProfile, fun i w hw => h.profiles i w (slot i ▸ hw), h.job.same h1 h2 ho⟩

/-! ### The plain updates, after anything that keeps the store -/

/-- A change of what neither the laws nor the queue of waiting commands is about. -/
theorem State.KeepsStore.same {s t u : State} (h : s.KeepsStore t) (hp : u.pending = t.pending := by rfl)
    (e : u.lawful = t.lawful := by rfl) : s.KeepsStore u := h.trans ⟨hp, fun l => l.same e⟩

theorem State.KeepsStore.notify {s t : State} (h : s.KeepsStore t) (n : Notice) : s.KeepsStore (t.notify n) := by
  unfold State.notify
  split <;> exact h.same

theorem State.KeepsStore.settleLamps {s t : State} (h : s.KeepsStore t) : s.KeepsStore t.settleLamps :=
  h.same

theorem State.KeepsStore.withHost {s t : State} (h : s.KeepsStore t) (q : HostLine) :
    s.KeepsStore { t with host := q } :=
  h.same

theorem State.KeepsStore.withLots {s t : State} (h : s.KeepsStore t) (ls : Vector (Option Lot) 4) :
    s.KeepsStore { t with lots := ls } :=
  h.same

theorem State.KeepsStore.withPort {s t : State} (h : s.KeepsStore t) (p : PortId) (f : Port → Port)
    (hf : ∀ q, q.settings.divisor ≤ 4095 → (f q).settings.divisor ≤ 4095 := by intro _ h; exact h) :
    s.KeepsStore (t.withPort p f) := by
  refine h.trans ⟨rfl, fun l => ⟨l.map, l.block, l.bin0, fun q => ?_, l.defaultProfile, l.profiles, l.job⟩⟩
  rw [State.port_withPort]
  split
  · exact hf _ (l.divisor q)
  · exact l.divisor q

/-- A change of the slots that moves no wafer and brings no profile out of range. -/
theorem State.KeepsStore.withSlots {s t : State} (h : s.KeepsStore t) (v : Vector Slot 12)
    (hv : t.StoreLaw → ∀ i w', (tabGet v i).wafer = some w' →
      ∃ w, t.waferAt i = some w ∧ w'.place = w.place ∧ (w.ProfilesOk → w'.ProfilesOk)) :
    s.KeepsStore { t with slots := v } := by
  refine h.trans ⟨rfl, fun l => ⟨l.map, ?_, l.bin0, l.divisor, l.defaultProfile, ?_, l.job⟩⟩
  · exact l.block.back fun i w' hw => by
      obtain ⟨w, hi, hp, -⟩ := hv l i w' hw
      exact ⟨w, hi, hp⟩
  · intro i w' hw
    obtain ⟨w, hi, -, hp⟩ := hv l i w' hw
    exact hp (l.profiles i w hi)

/-- A change of one wafer's record, as it stands, that keeps its place and its profiles in range. -/
theorem State.KeepsStore.withWaferAt {s t : State} (h : s.KeepsStore t) (i : SlotId) (f : Wafer → Wafer)
    (hf : t.StoreLaw → ∀ w, t.waferAt i = some w → (f w).place = w.place ∧ (w.ProfilesOk → (f w).ProfilesOk)) :
    s.KeepsStore (t.withWafer i f) := by
  refine h.withSlots _ fun l j w' hw => ?_
  have hj : (t.withWafer i f).waferAt j = some w' := hw
  rw [State.waferAt_withWafer] at hj
  split at hj
  · next e =>
    obtain ⟨w, hi, rfl⟩ := Option.map_eq_some_iff.mp hj
    exact ⟨w, e ▸ hi, hf l w hi⟩
  · exact ⟨w', hj, rfl, id⟩

theorem State.KeepsStore.withWafer {s t : State} (h : s.KeepsStore t) (i : SlotId) (f : Wafer → Wafer)
    (hf : ∀ w, (f w).place = w.place := by intro _; rfl)
    (hp : ∀ w, w.ProfilesOk → (f w).ProfilesOk := by intro _ h; exact h) : s.KeepsStore (t.withWafer i f) :=
  h.withWaferAt i f fun _ w _ => ⟨hf w, hp w⟩

theorem State.KeepsStore.queueOut {s t : State} (h : s.KeepsStore t) (p : PortId) (f : HeadOut) :
    s.KeepsStore (t.queueOut p f) := h.withPort p _

theorem State.KeepsStore.queueOutIfUp {s t : State} (h : s.KeepsStore t) (p : PortId) (f : HeadOut) :
    s.KeepsStore (t.queueOutIfUp p f) := by
  unfold State.queueOutIfUp
  split
  · exact h.queueOut p f
  · exact h

theorem State.KeepsStore.refuseFrame {s t : State} (h : s.KeepsStore t) (p : PortId) (k : Byte) (r : RefuseReason)
    (a b : Byte) : s.KeepsStore (t.refuseFrame p k r a b) := h.queueOut p _

theorem State.KeepsStore.setTouchdowns {s t : State} (h : s.KeepsStore t) (p : PortId) (es : List Entry) :
    s.KeepsStore (t.setTouchdowns p es) := h.withPort p _

theorem State.KeepsStore.dropAssignAt {s t : State} (h : s.KeepsStore t) (p : Option PortId) (x : Byte) :
    s.KeepsStore (t.dropAssignAt p x) := by
  cases p with
  | none => exact h
  | some p => exact h.withPort p _

/-! ### HELD -/

theorem State.KeepsStore.judgeHeld {s t : State} (h : s.KeepsStore t) (p : PortId) (x : Byte) (src : Option Source) :
    s.KeepsStore (t.judgeHeld p x src) := by
  unfold State.judgeHeld
  split
  · exact h
  · refine .settleLamps ?_
    split
    · exact .notify (.withPort (h.queueOutIfUp p _) p _) _
    · exact .notify (.withPort (h.queueOutIfUp p _) p _) _

theorem State.KeepsStore.judgeBound {s t : State} (h : s.KeepsStore t) (p : Option PortId) (x : Byte)
    (src : Option Source) : s.KeepsStore (t.judgeBound p x src) := by
  cases p with
  | none => exact h
  | some p => exact h.judgeHeld p x src

/-! ### Verdicts, windows and applications -/

theorem State.KeepsStore.alarmEffects {s t : State} (h : s.KeepsStore t) (i : SlotId) (p : Option PortId) (x : Byte)
    (src : Source) (e : AlarmEvent) : s.KeepsStore (t.alarmEffects i p x src e) := by
  cases e with
  | none => exact h
  | raised l =>
    cases l with
    | warn => exact .notify (h.withWafer i _) _
    | hold => exact .judgeBound (.notify (h.withWafer i _) _) _ _ _
  | escalated => exact .judgeBound (h.notify _) _ _ _
  | cleared l => exact h.notify _

theorem State.KeepsStore.giveVerdict {s t : State} (h : s.KeepsStore t) (i : SlotId) (sv : Source × Verdict) :
    s.KeepsStore (t.giveVerdict i sv) := by
  unfold State.giveVerdict
  split
  · exact h
  · exact .settleLamps (.alarmEffects (h.withWafer i _) _ _ _ _ _)

/-- A latch makes the staged profile active, which is accepted (R105). -/
theorem State.KeepsStore.latch {s t : State} (h : s.KeepsStore t) (i : SlotId) : s.KeepsStore (t.latch i) := by
  unfold State.latch
  split
  · exact h
  · next w hw =>
    split
    · exact h
    · next st hst =>
      have key : s.KeepsStore (t.withWafer i fun w =>
          { w.clearSurplus st.profile.watched.length with
            active := st.profile, activeSource := st.source, staged := none }) := by
        refine h.withWaferAt i _ fun l w' hw' => ⟨rfl, fun hp => ⟨?_, fun _ hn => nomatch hn⟩⟩
        cases hw.symm.trans hw'
        exact hp.2 st hst
      dsimp only
      split
      · exact .settleLamps (key.judgeBound _ _ _)
      · exact .settleLamps key

theorem State.KeepsStore.closeWindow {s t : State} (h : s.KeepsStore t) (i : SlotId) :
    s.KeepsStore (t.closeWindow i) := by
  unfold State.closeWindow
  split
  · exact h
  · exact .withWafer (.latch (h.trans (.foldl (fun u x => (State.KeepsStore.refl u).giveVerdict i x) _ t)) i) _ _

theorem State.KeepsStore.runDetect {s t : State} (h : s.KeepsStore t) (i : SlotId) : s.KeepsStore (t.runDetect i) := by
  unfold State.runDetect
  split
  · exact h.giveVerdict i _
  · exact h

theorem State.KeepsStore.closeIfFull {s t : State} (h : s.KeepsStore t) (i : SlotId) :
    s.KeepsStore (t.closeIfFull i) := by
  unfold State.closeIfFull
  split
  · exact h.closeWindow i
  · exact h

theorem State.KeepsStore.feedResult {s t : State} (h : s.KeepsStore t) (i : SlotId) (retest : Bool) (n : SiteId)
    (r : Bin) : s.KeepsStore (t.feedResult i retest n r) :=
  .closeIfFull (.runDetect (h.withWafer i _) i) i

theorem Wafer.ProfilesOk.retest {w : Wafer} (h : w.ProfilesOk) (cls : Bin → BinClass) (b k : Bin) :
    (w.retest cls b k).ProfilesOk := by
  unfold Wafer.retest
  split
  · exact h
  · dsimp only
    split <;> exact h

/-- Writing a tested cell of the store. -/
theorem State.KeepsStore.writeCell {s t : State} (h : s.KeepsStore t) {a n : Nat} {b : Bin} (ha : a < storeCells)
    (hn : n < 4) (h0 : n ≠ 0) (hb : t.MapLaw → b ≠ 0) :
    s.KeepsStore { t with map := mapWrite a (mkCell n b) t.map } :=
  h.trans ⟨rfl, fun l => ⟨l.map.write ha hn h0 (hb l.map) rfl, l.block, l.bin0, l.divisor, l.defaultProfile,
    l.profiles, l.job⟩⟩

/-- A site of the store is applied: its cell is written with a test count of 1 to 3 and a bin other than 0
(R70 to R77). -/
theorem State.KeepsStore.applySite {s t : State} (h : s.KeepsStore t) (i : SlotId) (d : SiteEntry)
    (ha : ∀ w, t.waferAt i = some w → w.cellAddress d.column d.row < storeCells) :
    s.KeepsStore (t.applySite i d) := by
  unfold State.applySite
  split
  · exact h
  · next w hw =>
    split
    · exact h.withWafer i _
    · next r _ =>
      split
      · exact h.withWafer i _
      · next hr =>
        dsimp only
        split
        · exact .feedResult (.withWafer (h.writeCell (ha w hw) (by decide) (by decide) fun _ => hr) i _) _ _ _ _
        · next h0 =>
          split
          · exact h.withWafer i _
          · next h3 =>
            refine .feedResult (.withWafer (h.writeCell (ha w hw) ?_ (by omega) fun l => ?_) i _
              (fun w => w.place_retest _ _ _) (fun w hp => hp.retest _ _ _)) _ _ _ _
            · have := (mapRead (w.cellAddress d.column d.row) t.map).isLt
              unfold cellCount at h3 ⊢
              omega
            · have kept := keptBin_eq_or w.policy t.binClass (cellBin (mapRead (w.cellAddress d.column d.row) t.map)) r
              rcases kept with e | e
              · rw [e]; exact l.cellBin_ne h0
              · rw [e]; exact hr

theorem State.KeepsStore.applySites {i : SlotId} (ds : List SiteEntry) : ∀ {s t : State}, s.KeepsStore t →
    (∀ d ∈ ds, ∀ w, t.waferAt i = some w → w.cellAddress d.column d.row < storeCells) →
    s.KeepsStore (ds.foldl (State.applySite i) t) := by
  induction ds with
  | nil => exact fun h _ => h
  | cons d ds ih =>
    intro s t h ha
    refine ih (h.applySite i d (ha d List.mem_cons_self)) fun c hc w' hw' => ?_
    obtain ⟨w, hw, hp⟩ := ((State.WorkFrame.refl t).applySite i d).waferAt_back hw'
    rw [Wafer.cellAddress_place hp]
    exact ha c (List.mem_cons_of_mem _ hc) w hw

theorem Entry.mem_ascending {e : Entry} {d : SiteEntry} : d ∈ e.ascending ↔ d ∈ e.sites := by
  simp [Entry.ascending, mem_siteIds]

theorem State.KeepsStore.applyEntry {s t : State} (h : s.KeepsStore t) {e : Entry} (he : t.EntryFits e) :
    s.KeepsStore (t.applyEntry e) := by
  unfold State.applyEntry
  split
  · exact h
  · next i hr =>
    exact .withWafer (.applySites _ h fun d hd w hw => he i w hr hw d (Entry.mem_ascending.mp hd)) i _

/-! ### Closes, voiding, the pass and the loss of a head -/

theorem State.KeepsStore.rollUp {s t : State} (h : s.KeepsStore t) (w : Wafer) (p : Option PortId) (x : Byte) :
    s.KeepsStore (t.rollUp w p x) := by
  unfold State.rollUp
  split
  · exact h
  · split
    · exact h
    · dsimp only
      split
      · exact h.withLots _
      · split
        · exact (h.withLots _).notify _
        · exact h.withLots _

theorem State.KeepsStore.countAbandoned {s t : State} (h : s.KeepsStore t) (w : Wafer) :
    s.KeepsStore (t.countAbandoned w) := by
  unfold State.countAbandoned
  split
  · exact h
  · exact h.withLots _

theorem Wafer.ProfilesOk.close {w : Wafer} (h : w.ProfilesOk) (c : CloseCause) : (w.close c).ProfilesOk :=
  ⟨h.1, fun _ hst => nomatch hst⟩

theorem Wafer.ProfilesOk.abandon {w : Wafer} (h : w.ProfilesOk) : w.abandon.ProfilesOk :=
  ⟨h.1, fun _ hst => nomatch hst⟩

theorem State.KeepsStore.enterClosed {s t : State} (h : s.KeepsStore t) (i : SlotId) (c : CloseCause) :
    s.KeepsStore (t.enterClosed i c) := by
  unfold State.enterClosed
  split
  · exact h
  · have closed := h.withWafer i (·.close c) (fun _ => rfl) fun _ hp => hp.close c
    exact .settleLamps (.judgeBound (.rollUp (.notify (closed.dropAssignAt _ _) _) _ _ _) _ _ _)

theorem State.KeepsStore.enterAbandoned {s t : State} (h : s.KeepsStore t) (i : SlotId) :
    s.KeepsStore (t.enterAbandoned i) := by
  unfold State.enterAbandoned
  split
  · exact h
  · have abandoned := h.withWafer i Wafer.abandon (fun _ => rfl) fun _ hp => hp.abandon
    exact .settleLamps (.judgeBound (.countAbandoned (abandoned.dropAssignAt _ _) _) _ _ _)

theorem State.KeepsStore.drainClose {s t : State} (h : s.KeepsStore t) (x : Byte) (rest : List Entry) :
    s.KeepsStore (t.drainClose x rest) := by
  unfold State.drainClose
  split
  · exact h
  · split
    · exact h
    · split
      · exact h.enterClosed _ _
      · exact h

/-- The pass over entries whose sites lie in the store; the work on one moves no wafer of another. -/
theorem State.KeepsStore.pass (p : PortId) (es : List Entry) : ∀ {s t : State}, s.KeepsStore t →
    (∀ e ∈ es, t.EntryFits e) → s.KeepsStore (t.pass p es) := by
  induction es with
  | nil => exact fun h _ => h
  | cons e rest ih =>
    intro s t h he
    unfold State.pass
    split
    · refine ih (((h.applyEntry (he e List.mem_cons_self)).setTouchdowns p rest).drainClose _ _) fun e' he' => ?_
      exact (he e' (List.mem_cons_of_mem _ he')).work
        ((((State.WorkFrame.refl t).applyEntry e).setTouchdowns p rest).drainClose _ _)
    · exact h

theorem State.KeepsStore.countVoided {s t : State} (h : s.KeepsStore t) (e : Entry) :
    s.KeepsStore (t.countVoided e) := by
  unfold State.countVoided
  split
  · exact h.withWafer _ _
  · exact h

theorem State.KeepsStore.voidAll {s t : State} (h : s.KeepsStore t) (p : PortId) : s.KeepsStore (t.voidAll p) :=
  .setTouchdowns (h.trans (.foldl (fun u e => (State.KeepsStore.refl u).countVoided e) _ t)) _ _

theorem State.KeepsStore.voidWafer {s t : State} (h : s.KeepsStore t) (p : PortId) (i : SlotId) (x : Byte)
    (he : ∀ e ∈ (t.port p).touchdowns, t.EntryFits e) : s.KeepsStore (t.voidWafer p i x) := by
  unfold State.voidWafer
  dsimp only
  split
  · refine .pass p _ (.setTouchdowns (h.withWafer i _) _ _) fun e hm => ?_
    rw [State.setTouchdowns, State.port_withPort_self] at hm
    exact (he e (List.mem_filter.mp hm).1).work (((State.WorkFrame.refl t).withWafer i _).setTouchdowns p _)
  · exact .setTouchdowns (h.withWafer i _) _ _

theorem State.KeepsStore.endTouchdowns {s t : State} (h : s.KeepsStore t) (i : SlotId) (w : Wafer) (x : Byte)
    (he : ∀ p, ∀ e ∈ (t.port p).touchdowns, t.EntryFits e) : s.KeepsStore (t.endTouchdowns i w x) := by
  unfold State.endTouchdowns
  split
  · exact (h.voidWafer _ i x (he _)).queueOutIfUp _ _
  · exact h

theorem State.KeepsStore.closeIfDraining {s t : State} (h : s.KeepsStore t) (p : PortId) (i : SlotId) :
    s.KeepsStore (t.closeIfDraining p i) := by
  unfold State.closeIfDraining
  split
  · split
    · exact h.enterClosed i _
    · exact h
  · exact h

theorem State.KeepsStore.suspendIfActive {s t : State} (h : s.KeepsStore t) (p : PortId) (i : SlotId) :
    s.KeepsStore (t.suspendIfActive p i) := by
  unfold State.suspendIfActive
  split
  · split
    · exact .notify (h.withWafer i _) _
    · exact h
  · exact h

theorem State.KeepsStore.lose {s t : State} (h : s.KeepsStore t) (p : PortId) (c : LossCause) :
    s.KeepsStore (t.lose p c) := by
  have closed := (h.voidAll p).trans (.foldl (fun u i => (State.KeepsStore.refl u).closeIfDraining p i) slotIds _)
  have steps := closed.trans (.foldl (fun u i => (State.KeepsStore.refl u).suspendIfActive p i) slotIds _)
  exact .settleLamps (.notify (steps.withPort p _ fun q hq => by cases c <;> exact hq) _)

end Sys2Proof.Machine
end

section
/-! PROOFS. What every line event, head frame, host command and reset keeps, in the words of `State.KeepsStore`. -/
namespace Sys2Proof.Machine

/-! ### Lines -/

theorem State.KeepsStore.rxEffect {s t : State} (h : s.KeepsStore t) (p : PortId) (e : RxEvent) :
    s.KeepsStore (t.rxEffect p e) := by
  cases e with
  | quiet => exact h
  | discarded => exact h.withPort p _
  | good f =>
    unfold State.rxEffect State.offer
    dsimp only
    split
    · exact h.withPort p _
    · split
      · exact h.withPort p _
      · exact .notify (h.withPort p _) _

theorem State.KeepsStore.headChar {s t : State} (h : s.KeepsStore t) (p : PortId) (c : RxChar) :
    s.KeepsStore (t.headChar p c) := by
  unfold State.headChar
  dsimp only
  split
  · exact h
  · exact .rxEffect (h.withPort p _) p _

theorem State.KeepsStore.shortBreak {s t : State} (h : s.KeepsStore t) (p : PortId) : s.KeepsStore (t.shortBreak p) := by
  unfold State.shortBreak
  dsimp only
  split
  · exact h
  · exact h
  · split
    · exact .withPort (h.withPort p _) p _
    · exact h.withPort p _

theorem State.KeepsStore.longBreak {s t : State} (h : s.KeepsStore t) (p : PortId) : s.KeepsStore (t.longBreak p) := by
  unfold State.longBreak
  dsimp only
  split
  · exact h
  · split
    · exact .lose (.withPort (h.shortBreak p) p _) p _
    · exact .withPort (h.shortBreak p) p _

theorem Port.beginSend_settings (q : Port) : q.beginSend.settings = q.settings := by
  unfold Port.beginSend
  split
  · split <;> rfl
  · rfl

theorem Port.finishSend_settings (q : Port) (r : Bool) : (q.finishSend r).settings = q.settings := by
  unfold Port.finishSend
  split
  · rfl
  · rw [Port.beginSend_settings]

theorem Port.takeFrame_settings (q : Port) (k : Byte) (rest : List Frame) :
    (q.takeFrame k rest).settings = q.settings := by
  unfold Port.takeFrame
  dsimp only
  split <;> rfl

/-! ### Head frames -/

theorem State.KeepsStore.takeFrame {s t : State} (h : s.KeepsStore t) (p : PortId) (k : Byte) (rest : List Frame) :
    s.KeepsStore (t.withPort p fun q => q.takeFrame k rest) :=
  h.withPort p _ fun q hq => by rw [Port.takeFrame_settings]; exact hq

/-- A taken frame keeps the store where its owner's judgement does. -/
theorem State.KeepsStore.takeHead {s : State} {p : PortId} {k : Byte} {owner : State → List Byte → State}
    (ho : ∀ rest bs, s.KeepsStore (owner (s.withPort p fun q => q.takeFrame k rest) bs)) :
    s.KeepsStore (s.takeHead p k owner) := by
  unfold State.takeHead
  split
  · next rest _ =>
    split
    · dsimp only
      split
      · exact ho rest _
      · exact .refuseFrame (.takeFrame (.refl s) p k rest) p k _ _ _
    · exact .refl s
  · exact .refl s

theorem State.KeepsStore.touch {s t : State} (h : s.KeepsStore t) (p : PortId) (bs : List Byte) :
    s.KeepsStore (t.touch p bs) := by
  unfold State.touch
  dsimp only
  split
  · exact h.refuseFrame p _ _ _ _
  · refine .queueOut ?_ p _
    split
    · exact h.setTouchdowns p _
    · exact h

theorem State.KeepsStore.site {s t : State} (h : s.KeepsStore t) (p : PortId) (bs : List Byte) :
    s.KeepsStore (t.site p bs) := by
  unfold State.site
  dsimp only
  split
  · exact h.refuseFrame p _ _ _ _
  · split
    · exact h.refuseFrame p _ _ _ _
    · exact h.setTouchdowns p _

/-- A sealed entry lists the sites it listed while it was OPEN (R53). -/
theorem mem_sealTag {es : List Entry} {tag : Byte} {e : Entry} (h : e ∈ sealTag es tag) :
    ∃ e' ∈ es, e.handle = e'.handle ∧ e.sites = e'.sites := by
  obtain ⟨e', he, rfl⟩ := List.mem_map.mp h
  refine ⟨e', he, ?_⟩
  split <;> exact ⟨rfl, rfl⟩

theorem State.KeepsStore.lift {s t : State} (h : s.KeepsStore t) (p : PortId) (bs : List Byte)
    (he : ∀ e ∈ (t.port p).touchdowns, t.EntryFits e) : s.KeepsStore (t.lift p bs) := by
  unfold State.lift
  dsimp only
  split
  · exact h.refuseFrame p _ _ _ _
  · split
    · exact h.refuseFrame p _ _ _ _
    · split
      · exact h.refuseFrame p _ _ _ _
      · split
        · refine .pass p _ (h.setTouchdowns p _) fun e hm => ?_
          rw [State.setTouchdowns, State.port_withPort_self] at hm
          obtain ⟨e', hm', hh, hs⟩ := mem_sealTag hm
          intro i w hr hw d hd
          exact he e' hm' i w (hh ▸ hr) hw d (hs ▸ hd)
        · exact h.setTouchdowns p _

theorem State.KeepsStore.unload {s t : State} (h : s.KeepsStore t) (p : PortId) (bs : List Byte) :
    s.KeepsStore (t.unload p bs) := by
  unfold State.unload
  dsimp only
  split
  · exact h.refuseFrame p _ _ _ _
  · split
    · split
      · split
        · exact h.refuseFrame p _ _ _ _
        · exact .settleLamps (h.withWafer _ _)
      · exact h.enterClosed _ _
    · exact h.refuseFrame p _ _ _ _

theorem State.KeepsStore.beat {s t : State} (h : s.KeepsStore t) (p : PortId) (bs : List Byte) :
    s.KeepsStore (t.beat p bs) := by
  unfold State.beat
  split
  · exact h
  · exact h.refuseFrame p _ _ _ _

theorem State.KeepsStore.nonHeadFrame (s : State) (p : PortId) : s.KeepsStore (s.nonHeadFrame p) := by
  unfold State.nonHeadFrame
  split
  · split
    · exact .refl s
    · exact .withPort (.refl s) p _
  · exact .refl s

theorem State.KeepsStore.queueHoldAfterWelcome {s t : State} (h : s.KeepsStore t) (p : PortId) :
    s.KeepsStore (t.queueHoldAfterWelcome p) := by
  unfold State.queueHoldAfterWelcome
  split
  · split
    · exact h.queueOut p _
    · exact h
  · exact h

theorem State.KeepsStore.announceUp {s t : State} (h : s.KeepsStore t) (p : PortId) (serial : Word32) (maxSites : Nat)
    (resume : Option Byte) : s.KeepsStore (t.announceUp p serial maxSites resume) := by
  have begun : s.KeepsStore (t.withPort p fun q => q.startSession serial maxSites) := h.withPort p _
  unfold State.announceUp
  dsimp only
  refine .settleLamps (.queueHoldAfterWelcome (.queueOut (.notify ?_ _) p _) p)
  split
  · exact .judgeHeld (begun.withWafer _ _) p _ _
  · exact begun

theorem State.KeepsStore.announce {s t : State} (h : s.KeepsStore t) (p : PortId) (bs : List Byte) :
    s.KeepsStore (t.announce p bs) := by
  unfold State.announce
  split
  · exact h.refuseFrame p _ _ _ _
  · dsimp only
    split
    · exact (h.lose p _).announceUp p _ _ _
    · exact h.announceUp p _ _ _

theorem State.KeepsStore.takeAnnounce (s : State) (p : PortId) : s.KeepsStore (s.takeAnnounce p) := by
  unfold State.takeAnnounce
  split
  · split
    · exact .announce (.takeFrame (.refl s) p _ _) p _
    · exact .refl s
  · exact .refl s

/-! ### Host commands -/

/-- A taken command keeps the store where its block's judgement does. -/
theorem State.KeepsStore.takeHost {s : State} {code : Byte} {run : State → List Byte → Answer}
    (hr : ∀ rest bs, s.KeepsStore (run (s.popHost rest) bs).1) : s.KeepsStore (s.takeHost code run) := by
  unfold State.takeHost
  split
  · next f rest _ _ =>
    split
    · exact .withHost (hr rest f.payload) _
    · exact .refl s
  · exact .refl s

theorem State.KeepsStore.popHost (s : State) (rest : List Frame) : s.KeepsStore (s.popHost rest) := .withHost (.refl s) _

theorem State.KeepsStore.withHandle {s t : State} (h : s.KeepsStore t) (x : Byte) {k : SlotId → Wafer → Answer}
    (hk : ∀ i w, t.waferAt i = some w → s.KeepsStore (k i w).1) : s.KeepsStore (t.withHandle x k).1 := by
  unfold State.withHandle
  split
  · next i _ =>
    split
    · next w hw => exact hk i w hw
    · exact h
  · exact h

/-- A HEAD_SET stores a divisor in range (R161). -/
theorem State.KeepsStore.headSet {s t : State} (h : s.KeepsStore t) (p : PortId) {l : LineSettings}
    (hl : l.divisor ≤ 4095) : s.KeepsStore (t.headSet p l) := by
  unfold State.headSet
  dsimp only
  have stored : s.KeepsStore ((t.withPort p fun q => q.storeTimer l).withPort p fun q => q.storeDivisor l.divisor) :=
    .withPort (h.withPort p _) p _ fun _ _ => hl
  split
  · split
    · exact stored.lose p _
    · split <;> exact stored.withPort p _
  · split
    · exact stored
    · exact stored.withPort p _
  · split
    · exact stored.withPort p _
    · split
      · exact stored
      · exact stored.withPort p _
  · split
    · exact stored.withPort p _
    · split
      · exact stored
      · exact stored.withPort p _

theorem State.KeepsStore.runHeadSet {s t : State} (h : s.KeepsStore t) (bs : List Byte) :
    s.KeepsStore (runHeadSet t bs).1 := by
  unfold Machine.runHeadSet
  split
  · exact h
  · split
    · exact h
    · split
      · exact h
      · next hd => exact .settleLamps (h.headSet _ (Nat.le_of_not_lt fun hc => hd (.inl hc)))

theorem State.KeepsStore.runHeadStatus {s t : State} (h : s.KeepsStore t) (bs : List Byte) :
    s.KeepsStore (runHeadStatus t bs).1 := by
  unfold Machine.runHeadStatus
  split
  · exact h
  · split
    · exact h
    · exact h.withPort _ _

theorem State.KeepsStore.runHeadDrop {s t : State} (h : s.KeepsStore t) (bs : List Byte) :
    s.KeepsStore (runHeadDrop t bs).1 := by
  unfold Machine.runHeadDrop
  split
  · exact h
  · split
    · exact h
    · split
      · exact h
      · exact h.lose _ _

/-! ### WAFER_OPEN places its block (R7, R8) -/

theorem spanFree_iff (blocks : List (Nat × Nat)) (base size : Nat) :
    spanFree blocks base size = true ↔ ∀ b ∈ blocks, base + size ≤ b.1 ∨ b.1 + b.2 ≤ base := by
  simp [spanFree]

theorem State.mem_blocks (s : State) (b : Nat × Nat) :
    b ∈ s.blocks ↔ ∃ i w, s.waferAt i = some w ∧ b = (w.base, w.size) := by
  unfold State.blocks
  rw [List.mem_filterMap]
  constructor
  · rintro ⟨sl, hsl, hb⟩
    obtain ⟨i, rfl⟩ := (mem_tabList _ _).mp hsl
    obtain ⟨w, hw, rfl⟩ := Option.map_eq_some_iff.mp hb
    exact ⟨i, w, hw, rfl⟩
  · rintro ⟨i, w, hw, rfl⟩
    exact ⟨_, (mem_tabList _ _).mpr ⟨i, rfl⟩, Option.map_eq_some_iff.mpr ⟨w, hw, rfl⟩⟩

theorem blockSizeFor_mem (n : Nat) : blockSizeFor n ∈ blockSizes := by
  unfold blockSizeFor
  cases h : blockSizes.find? fun z => decide (n ≤ z) with
  | none => decide
  | some z => exact List.mem_of_find?_eq_some h

theorem le_blockSizeFor {n : Nat} (h : n ≤ 262144) : n ≤ blockSizeFor n := by
  unfold blockSizeFor
  cases hf : blockSizes.find? fun z => decide (n ≤ z) with
  | none => exact h
  | some z => simpa using List.find?_some hf

/-- The base placed: a multiple of the size in the store, whose span no block overlaps. -/
theorem placeBlock_some {blocks : List (Nat × Nat)} {size base : Nat} (h : placeBlock blocks size = some base) :
    size ∣ base ∧ base + size ≤ storeCells ∧ spanFree blocks base size = true := by
  unfold placeBlock at h
  have hm := List.mem_of_find?_eq_some h
  obtain ⟨k, hk, rfl⟩ := List.mem_map.mp hm
  refine ⟨Dvd.intro_left k rfl, ?_, List.find?_some (p := fun b => spanFree blocks b size) h⟩
  have hlt := List.mem_range.mp hk
  calc k * size + size = (k + 1) * size := by rw [Nat.add_mul, Nat.one_mul]
    _ ≤ storeCells / size * size := Nat.mul_le_mul_right _ hlt
    _ ≤ storeCells := Nat.div_mul_le_self _ _

theorem readOpen_gridOk {bs : List Byte} {a : OpenArgs} (h : readOpen bs = some a) : gridOk a.rows a.columns = true := by
  unfold readOpen at h
  split at h
  · split at h
    · next hc => cases h; exact hc.2.1
    · cases h
  · cases h

theorem State.profileOf_accepted {s : State} (h : s.StoreLaw) {n : Nat} {p : Profile} (hp : s.profileOf n = .ok p) :
    p.accepted = true := by
  unfold State.profileOf at hp
  split at hp
  · next i _ =>
    split at hp
    · cases hp
    · split at hp
      · next q hq =>
        cases hp
        have := s.profilePage_holds i
        rw [hq] at this
        exact this
      · cases hp
  · cases hp; exact h.defaultProfile

theorem State.waferAt_fillSlot (s : State) (i j : SlotId) (w : Wafer) :
    (s.fillSlot i w).waferAt j = if j = i then some w else s.waferAt j := by
  unfold State.fillSlot State.waferAt
  rw [tabGet_tabModify]
  split <;> rfl

/-- A lawful block beside the blocks held: the laws of the blocks hold with it in a slot. -/
theorem State.BlockLaw.fillSlot {s : State} (h : s.BlockLaw) (i : SlotId) {w : Wafer}
    (hg : gridOk w.rows w.columns = true) (hs : w.size = blockSizeFor (w.rows * w.columns))
    (hp : placeBlock s.blocks w.size = some w.base) : (s.fillSlot i w).BlockLaw := by
  obtain ⟨hdvd, hin, hfree⟩ := placeBlock_some hp
  have apart : ∀ {j v}, s.waferAt j = some v → w.base + w.size ≤ v.base ∨ v.base + v.size ≤ w.base := fun hv =>
    (spanFree_iff _ _ _).mp hfree _ ((s.mem_blocks _).mpr ⟨_, _, hv, rfl⟩)
  refine ⟨fun j v hv => ?_, fun j k hjk u hu v hv => ?_⟩
  · rw [State.waferAt_fillSlot] at hv
    split at hv
    · cases hv; exact ⟨hg, hs, hdvd, hin⟩
    · exact h.1 j v hv
  · rw [State.waferAt_fillSlot] at hu hv
    split at hu
    · next hj =>
      cases hu
      rw [if_neg fun hk => hjk (hj.trans hk.symm)] at hv
      exact apart hv
    · split at hv
      · cases hv; exact (apart hu).symm
      · exact h.2 j k hjk u hu v hv

theorem State.MapLaw.clear {s t : State} (h : s.MapLaw) {base size : Nat} (e : t.map = mapClear base size s.map) :
    t.MapLaw :=
  ⟨e ▸ mapWf_mapClear base size h.1, fun c hc => h.2 c (List.mem_filter.mp (e ▸ hc)).1⟩

/-- The opening of a wafer that passed its checks (R22). -/
theorem State.KeepsStore.openWafer {s t : State} (h : s.KeepsStore t) (a : OpenArgs) (i : SlotId) {prof : Profile}
    (l : LotId) {base : Nat} (hg : gridOk a.rows a.columns = true) (hprof : t.StoreLaw → prof.accepted = true)
    (hb : placeBlock t.blocks (blockSizeFor (a.rows * a.columns)) = some base) :
    s.KeepsStore (t.openWafer a i prof l base) := by
  unfold State.openWafer
  dsimp only
  have filled : s.KeepsStore (({ t with map := mapClear base (blockSizeFor (a.rows * a.columns)) t.map }.joinLot l
      a.lotText).fillSlot i (newWafer a l base (t.port a.port).serial prof)) := ?_
  · exact .settleLamps (.judgeHeld (filled.queueOut _ _) _ _ _)
  refine h.trans ⟨rfl, fun law => ?_⟩
  refine ⟨law.map.clear rfl, law.block.fillSlot i hg rfl hb, law.bin0, law.divisor, law.defaultProfile,
    fun j w hw => ?_, law.job⟩
  rw [Option.mem_def, State.waferAt_fillSlot] at hw
  split at hw
  · cases hw; exact ⟨hprof law, fun _ hst => nomatch hst⟩
  · exact law.profiles j w hw

theorem State.KeepsStore.judgeOpen {s t : State} (h : s.KeepsStore t) {a : OpenArgs}
    (hg : gridOk a.rows a.columns = true) : s.KeepsStore (t.judgeOpen a).1 := by
  unfold State.judgeOpen
  split
  · exact h
  · split
    · exact h
    · split
      · exact h
      · split
        · exact h
        · split
          · exact h
          · next hprof =>
            split
            · exact h
            · split
              · exact h
              · next hb => exact h.openWafer a _ _ hg (fun l => t.profileOf_accepted l hprof) hb

theorem State.KeepsStore.runWaferOpen {s t : State} (h : s.KeepsStore t) (bs : List Byte) :
    s.KeepsStore (runWaferOpen t bs).1 := by
  unfold Machine.runWaferOpen
  split
  · exact h
  · split
    · exact h
    · next ha => exact h.judgeOpen (readOpen_gridOk ha)

/-! ### The other commands of the wafer table -/

theorem State.KeepsStore.runWaferClose {s t : State} (h : s.KeepsStore t) (bs : List Byte)
    (he : ∀ p, ∀ e ∈ (t.port p).touchdowns, t.EntryFits e) : s.KeepsStore (runWaferClose t bs).1 := by
  unfold Machine.runWaferClose
  split
  · exact h
  · refine h.withHandle _ fun i w _ => ?_
    split
    · exact (h.endTouchdowns i w _ he).enterClosed i _
    · exact h

theorem State.KeepsStore.runWaferAbandon {s t : State} (h : s.KeepsStore t) (bs : List Byte)
    (he : ∀ p, ∀ e ∈ (t.port p).touchdowns, t.EntryFits e) : s.KeepsStore (runWaferAbandon t bs).1 := by
  unfold Machine.runWaferAbandon
  split
  · exact h
  · refine h.withHandle _ fun i w _ => ?_
    split
    · exact (h.endTouchdowns i w _ he).enterAbandoned i
    · exact h

theorem State.KeepsStore.runWaferResume {s t : State} (h : s.KeepsStore t) (bs : List Byte) :
    s.KeepsStore (runWaferResume t bs).1 := by
  unfold Machine.runWaferResume
  split
  · exact h
  · split
    · exact h
    · next p _ =>
      refine h.withHandle _ fun i w _ => ?_
      split
      · exact h
      · split
        · exact h
        · split
          · exact h
          · have bound := h.withWafer i fun w =>
              { w with state := .active, boundPort := some p, serial := (t.port p).serial }
            exact .settleLamps (.judgeHeld (.judgeBound (.queueOut (bound.dropAssignAt _ _) p _) _ _ _) p _ _)

/-- Freeing slots leaves no wafer anywhere but where one stood. -/
theorem State.KeepsStore.freeSlotAt {s t : State} (h : s.KeepsStore t) (i : SlotId) : s.KeepsStore (t.freeSlotAt i) := by
  refine h.withSlots _ fun _ j w hw => ⟨w, ?_, rfl, id⟩
  rw [tabGet_tabModify] at hw
  split at hw
  · cases hw
  · exact hw

theorem State.KeepsStore.runWaferDiscard {s t : State} (h : s.KeepsStore t) (bs : List Byte) :
    s.KeepsStore (runWaferDiscard t bs).1 := by
  unfold Machine.runWaferDiscard
  split
  · exact h
  · refine h.withHandle _ fun i w _ => ?_
    split
    · exact h
    · exact h.freeSlotAt i

/-- A command that answers from a wafer's record leaves the state alone. -/
theorem State.withHandle_fst {s : State} {x : Byte} {k : SlotId → Wafer → Answer} (hk : ∀ i w, (k i w).1 = s) :
    (s.withHandle x k).1 = s := by
  unfold State.withHandle
  split
  · split
    · exact hk _ _
    · rfl
  · rfl

theorem runWaferRead_fst (s : State) (bs : List Byte) : (runWaferRead s bs).1 = s := by
  unfold runWaferRead
  split
  · rfl
  · exact State.withHandle_fst fun _ _ => rfl

theorem runWaferBins_fst (s : State) (bs : List Byte) : (runWaferBins s bs).1 = s := by
  unfold runWaferBins
  split
  · rfl
  · exact State.withHandle_fst fun _ _ => rfl

theorem runAlarmsRead_fst (s : State) (bs : List Byte) : (runAlarmsRead s bs).1 = s := by
  unfold runAlarmsRead
  split
  · rfl
  · exact State.withHandle_fst fun _ _ => rfl

theorem runLimitsRead_fst (s : State) (bs : List Byte) : (runLimitsRead s bs).1 = s := by
  unfold runLimitsRead
  split
  · rfl
  · exact State.withHandle_fst fun _ _ => rfl

theorem runMapRead_fst (s : State) (bs : List Byte) : (runMapRead s bs).1 = s := by
  unfold runMapRead
  split
  · rfl
  · split
    · rfl
    · refine State.withHandle_fst fun _ w => ?_
      split <;> rfl

/-! ### Staging and releasing -/

theorem State.KeepsStore.stageCheck {s t : State} (h : s.KeepsStore t) (x : Byte) {k : SlotId → Answer}
    (hk : ∀ i, s.KeepsStore (k i).1) : s.KeepsStore (t.stageCheck x k).1 := by
  unfold State.stageCheck
  refine h.withHandle x fun i w _ => ?_
  split
  · exact hk i
  · exact h

theorem State.KeepsStore.stage {s t : State} (h : s.KeepsStore t) (i : SlotId) {p : Profile} (source : Byte)
    (hp : t.StoreLaw → p.accepted = true) : s.KeepsStore (t.stage i p source) := by
  refine h.withWaferAt i _ fun l w _ => ⟨rfl, fun ok => ⟨ok.1, fun st hst => ?_⟩⟩
  cases hst
  exact hp l

theorem State.KeepsStore.runLimitsStage {s t : State} (h : s.KeepsStore t) (bs : List Byte) :
    s.KeepsStore (runLimitsStage t bs).1 := by
  unfold Machine.runLimitsStage
  split
  · split
    · exact h
    · refine h.stageCheck _ fun i => ?_
      split
      · exact h
      · next hp => exact h.stage i _ fun l => t.profileOf_accepted l hp
  · split
    · exact h
    · split
      · exact h
      · next ha => exact h.stageCheck _ fun i => h.stage i _ fun _ => by simpa using ha

theorem State.KeepsStore.runHoldRelease {s t : State} (h : s.KeepsStore t) (bs : List Byte) :
    s.KeepsStore (runHoldRelease t bs).1 := by
  unfold Machine.runHoldRelease
  split
  · exact h
  · exact h.withHandle _ fun i w _ => .settleLamps (.judgeBound (h.withWafer i _) _ _ _)

/-! ### Tables, lots and notices -/

theorem readBins_zero {bs : List Byte} (h : binCodesOk bs = true) : tabGet (readBins bs) 0 = .unused := by
  rw [binCodesOk, Bool.and_eq_true, beq_iff_eq] at h
  simp [readBins, tabGet, read1, h.2]
  rfl

theorem State.KeepsStore.withBins {s t : State} (h : s.KeepsStore t) {v : Vector BinClass 64}
    (hv : tabGet v 0 = .unused) : s.KeepsStore { t with bins := v } :=
  h.trans ⟨rfl, fun l => ⟨l.map, l.block, hv, l.divisor, l.defaultProfile, l.profiles, l.job⟩⟩

theorem State.KeepsStore.runBinsSet {s t : State} (h : s.KeepsStore t) (bs : List Byte) :
    s.KeepsStore (runBinsSet t bs).1 := by
  unfold Machine.runBinsSet
  split
  · exact h
  · split
    · exact h
    · next hb =>
      split
      · exact h
      · exact h.withBins (readBins_zero (by simpa using hb))

theorem State.KeepsStore.runLampSet {s t : State} (h : s.KeepsStore t) (bs : List Byte) :
    s.KeepsStore (runLampSet t bs).1 := by
  unfold Machine.runLampSet
  split
  · exact h
  · split
    · exact h
    · exact .settleLamps h.same

theorem State.KeepsStore.runAlertSet {s t : State} (h : s.KeepsStore t) (bs : List Byte) :
    s.KeepsStore (runAlertSet t bs).1 := by
  unfold Machine.runAlertSet
  split
  · exact h
  · split
    · exact h
    · exact h.same

theorem State.KeepsStore.withLot {s t : State} (h : s.KeepsStore t) (bs : List Byte) {k : LotId → Lot → Answer}
    (hk : ∀ l e, s.KeepsStore (k l e).1) : s.KeepsStore (t.withLot bs k).1 := by
  unfold State.withLot
  split
  · exact h
  · split
    · exact h
    · split
      · exact h
      · exact hk _ _

theorem Slot.leaveLot_wafer {l : LotId} {sl : Slot} {w' : Wafer} (h : (sl.leaveLot l).wafer = some w') :
    ∃ w, sl.wafer = some w ∧ w'.place = w.place ∧ (w.ProfilesOk → w'.ProfilesOk) := by
  obtain ⟨w, hw, rfl⟩ := Option.map_eq_some_iff.mp h
  refine ⟨w, hw, ?_⟩
  split <;> exact ⟨rfl, id⟩

theorem State.KeepsStore.runLotEnd {s t : State} (h : s.KeepsStore t) (bs : List Byte) :
    s.KeepsStore (runLotEnd t bs).1 := by
  refine h.withLot bs fun l e => ?_
  split
  · exact h
  · have left : s.KeepsStore { t with slots := tabMap (Slot.leaveLot l) t.slots } := h.withSlots _ fun _ i w' hw => by
      rw [tabGet_tabMap] at hw
      exact Slot.leaveLot_wafer hw
    exact left.withLots _

theorem State.KeepsStore.runNoticeFetch {s t : State} (h : s.KeepsStore t) (bs : List Byte) :
    s.KeepsStore (runNoticeFetch t bs).1 := by
  unfold Machine.runNoticeFetch
  split
  · exact h
  · exact h.same

/-! ### Pages and resets -/

theorem runPageRead_fst (s : State) (bs : List Byte) : (runPageRead s bs).1 = s := by
  have answer : ∀ {α : Type} (id : Byte) (pg : Page α) (chars : α → List Byte), (s.readPage id pg chars).1 = s := by
    intro α id pg chars
    cases pg <;> rfl
  unfold runPageRead
  split
  · rfl
  · split
    · rfl
    · split
      · rfl
      · split
        · rfl
        · split <;> exact answer _ _ _

/-- A page changed, with the operation in flight that is lawful on it or none. -/
theorem State.StoreLaw.setPage {s : State} (h : s.StoreLaw) (pg : StoredPage) (v : PageBytes) (o : Option PageOp)
    (ho : ∀ op ∈ o, op.job.Law ∧ op.remaining ≤ op.job.duration ∧ op.job.page = pg ∧ v = PageBytes.lost) :
    State.StoreLaw { s.setPage pg v with pageOp := o } := by
  have job : State.JobLaw { s.setPage pg v with pageOp := o } := by
    intro op hop
    obtain ⟨hl, hr, hp, hv⟩ := ho op hop
    refine ⟨hl, hr, ?_⟩
    show (s.setPage pg v).pageBytes op.job.page = _
    rw [State.setPage_pageBytes, if_pos hp, hv]
  cases pg <;> exact ⟨h.map, h.block, h.bin0, h.divisor, h.defaultProfile, h.profiles, job⟩

theorem State.KeepsStore.pageDone (s : State) (stored : Bool) : s.KeepsStore (s.pageDone stored) := by
  unfold State.pageDone
  split
  · exact .refl s
  · split
    · have completed : ∀ pg v, s.KeepsStore { s.setPage pg v with pageOp := none } := fun pg v =>
        ⟨s.setPage_pending pg v, fun l => l.setPage pg v none fun _ hop => nomatch hop⟩
      exact (completed _ _).notify _
    · exact .refl s

theorem State.KeepsStore.startJob {s t : State} (h : s.KeepsStore t) (j : PageJob) (hj : t.StoreLaw → j.Law) :
    s.KeepsStore (t.startJob j) := by
  refine h.trans ⟨t.setPage_pending _ _, fun l => l.setPage _ _ _ fun op hop => ?_⟩
  cases hop
  exact ⟨hj l, Nat.le_refl _, rfl, rfl⟩

theorem State.KeepsStore.runPageErase {s t : State} (h : s.KeepsStore t) (bs : List Byte) :
    s.KeepsStore (runPageErase t bs).1 := by
  unfold Machine.runPageErase
  split
  · exact h
  · split
    · exact h
    · split
      · exact h
      · split
        · exact h
        · exact h.startJob _ fun _ => trivial

/-- What a PAGE_WRITE composes is VALID in its page (R180). -/
theorem State.writeJob_law {s : State} (h : s.StoreLaw) (pg : StoredPage) {p : Profile} (hp : p.accepted = true) :
    (s.writeJob pg p).Law := by
  cases pg with
  | defaults =>
    have := judge_defaultsImage (s.snapshot p) h.bin0
      (fun q => by rw [State.snapshot, tabGet_tabMap]; exact h.divisor q) hp
    exact congrArg Page.isValid this
  | profile i => exact congrArg Page.isValid (judge_profileImage p hp)

theorem State.KeepsStore.runPageWrite {s t : State} (h : s.KeepsStore t) (bs : List Byte) :
    s.KeepsStore (runPageWrite t bs).1 := by
  unfold Machine.runPageWrite
  split
  · exact h
  · split
    · exact h
    · split
      · exact h
      · split
        · exact h
        · next ha =>
          split
          · exact h
          · split
            · exact h
            · exact h.startJob _ fun l => State.writeJob_law l _ (by simpa using ha)

/-- The settings a reset loads are in range (R182). -/
theorem loadedDefaults_law {pg : Page Defaults} (h : pg.holds Defaults.Law) : (loadedDefaults pg).Law := by
  have factory : Defaults.Law ⟨factoryBins, factoryLampTable, Vector.replicate 4 factoryLine, true, factoryProfile⟩ :=
    ⟨by decide, fun p => by rw [tabGet_replicate]; decide, by decide⟩
  cases pg with
  | valid d => exact h
  | blank => exact factory
  | damaged => exact factory

theorem Port.start_settings (l : LineSettings) : (Port.start l).settings = l := by
  unfold Port.start
  split <;> rfl

theorem State.cutShort_pending (s : State) : s.cutShort.pending = s.pending := by
  unfold State.cutShort
  split
  · rfl
  · exact s.setPage_pending _ _

theorem State.KeepsStore.restart (s : State) (st : Straps) : s.KeepsStore (s.restart st) := by
  refine .settleLamps ⟨s.cutShort_pending, fun _ => ?_⟩
  obtain ⟨hbin, hdiv, hprof⟩ := loadedDefaults_law s.cutShort.defaultsPage_holds
  have free : ∀ i, tabGet State.reset.slots i = ⟨0, none⟩ := fun i => tabGet_replicate _ i
  have noWafer : ∀ i, ¬∃ w, (tabGet State.reset.slots i).wafer = some w := fun i ⟨w, hw⟩ => by rw [free] at hw; cases hw
  have noBlock : State.reset.BlockLaw :=
    ⟨fun i w hw => (noWafer i ⟨w, hw⟩).elim, fun i _ _ v hv => (noWafer i ⟨v, hv⟩).elim⟩
  refine ⟨⟨mapWf_nil, fun _ hc => nomatch hc⟩, noBlock, hbin, fun p => ?_, hprof, fun i w hw => (noWafer i ⟨w, hw⟩).elim,
    fun _ hop => nomatch hop⟩
  show (tabGet (tabMap Port.start _) p).settings.divisor ≤ 4095
  rw [tabGet_tabMap, Port.start_settings]
  exact hdiv p

theorem State.KeepsStore.softReset {s t : State} (h : s.KeepsStore t) : s.KeepsStore t.softReset := by
  have freed : s.KeepsStore { t with slots := tabMap Slot.vacate t.slots } := by
    refine h.withSlots _ fun _ i w hw => ?_
    rw [tabGet_tabMap] at hw
    cases hw
  refine .settleLamps (freed.trans ⟨rfl, fun l => ?_⟩)
  refine ⟨l.map, l.block, l.bin0, fun p => ?_, l.defaultProfile, l.profiles, l.job⟩
  show (tabGet (tabMap Port.softReset _) p).settings.divisor ≤ 4095
  rw [tabGet_tabMap]
  exact l.divisor p

theorem State.KeepsStore.runPartReset {s t : State} (h : s.KeepsStore t) (bs : List Byte) :
    s.KeepsStore (runPartReset t bs).1 := by
  unfold Machine.runPartReset
  split
  · exact h
  · exact h.softReset

theorem State.KeepsStore.tick (s : State) : s.KeepsStore s.tick := by
  refine ⟨rfl, fun l => ⟨l.map, l.block, l.bin0, fun p => ?_, l.defaultProfile, l.profiles, fun op hop => ?_⟩⟩
  · show (tabGet (tabMap Port.tick s.ports) p).settings.divisor ≤ 4095
    rw [tabGet_tabMap]
    exact l.divisor p
  · obtain ⟨op', hop', rfl⟩ := Option.map_eq_some_iff.mp hop
    obtain ⟨hl, hr, hb⟩ := l.job op' hop'
    exact ⟨hl, Nat.le_trans (Nat.sub_le _ _) hr, hb⟩

end Sys2Proof.Machine
end

section
/-! PROOFS. What a command can answer, and what follows for every step (O7, O14, O4, O6). -/
namespace Sys2Proof.Machine

/-! ### What a command can answer -/

theorem Port.takeFrame_touchdowns (q : Port) (k : Byte) (rest : List Frame) :
    (q.takeFrame k rest).touchdowns = q.touchdowns := by
  unfold Port.takeFrame
  dsimp only
  split <;> rfl

theorem State.KeepsStore.takeLift {s : State} (h : s.cellsExist = true) (p : PortId) :
    s.KeepsStore (s.takeHead p kindLift (State.lift p)) := by
  refine .takeHead fun rest bs => .lift (.takeFrame (.refl s) p _ rest) p bs fun e hm => ?_
  rw [State.port_withPort_self, Port.takeFrame_touchdowns] at hm
  exact ((State.cellsExist_iff s).mp h).2 p e hm

theorem State.KeepsStore.takeMapRead (s : State) : s.KeepsStore (s.takeHost 0x4E runMapRead) :=
  .takeHost fun rest bs => by rw [runMapRead_fst]; exact .popHost s rest

/-- A command answers a next state that keeps the store, or is one of the four that may stop, which answers such
a state where every cell exists and a fault elsewhere (log 13). -/
theorem exec_cases (c : Instr) (s : State) :
    (∃ t, exec c s = .next t ∧ s.KeepsStore t) ∨
    ((∃ p, c = .lift p) ∨ c = .waferClose ∨ c = .waferAbandon ∨ c = .mapRead) ∧
      ∃ t, exec c s = s.guardCells t ∧ (s.cellsExist = true → s.KeepsStore t) := by
  have fits := fun h : s.cellsExist = true => ((State.cellsExist_iff s).mp h).2
  have pop : ∀ rest, s.KeepsStore (s.popHost rest) := .popHost s
  have self : s.KeepsStore s := .refl s
  cases c with
  | headFrameReceived p cs => exact .inl ⟨_, rfl, .foldl (fun u c => (State.KeepsStore.refl u).headChar p c) cs s⟩
  | shortBreak p => exact .inl ⟨_, rfl, self.shortBreak p⟩
  | longBreak p => exact .inl ⟨_, rfl, self.longBreak p⟩
  | hostFrameReceived cs => exact .inl ⟨_, rfl, self.withHost _⟩
  | hostShortBreak => exact .inl ⟨_, rfl, self.withHost _⟩
  | announce p => exact .inl ⟨_, rfl, .takeAnnounce s p⟩
  | touch p => exact .inl ⟨_, rfl, .takeHead fun rest bs => .touch (self.takeFrame p _ rest) p bs⟩
  | site p => exact .inl ⟨_, rfl, .takeHead fun rest bs => .site (self.takeFrame p _ rest) p bs⟩
  | lift p => exact .inr ⟨.inl ⟨p, rfl⟩, _, rfl, fun h => .takeLift h p⟩
  | unload p => exact .inl ⟨_, rfl, .takeHead fun rest bs => .unload (self.takeFrame p _ rest) p bs⟩
  | beat p => exact .inl ⟨_, rfl, .takeHead fun rest bs => .beat (self.takeFrame p _ rest) p bs⟩
  | nonHeadFrame p => exact .inl ⟨_, rfl, .nonHeadFrame s p⟩
  | silenceExpiry p =>
    refine .inl ⟨_, rfl, ?_⟩
    unfold State.silenceExpiry
    split
    · exact self.lose p _
    · exact self
  | headFrameSend p r =>
    exact .inl ⟨_, rfl, self.withPort p _ fun q hq => by rw [Port.beginSend_settings]; exact hq⟩
  | hostReplySend e => exact .inl ⟨_, rfl, self.withHost _⟩
  | pageDone stored => exact .inl ⟨_, rfl, .pageDone s stored⟩
  | lampPhaseExpiry l => exact .inl ⟨_, rfl, self.same⟩
  | powerUp st => exact .inl ⟨_, rfl, .restart s st⟩
  | pinReset st => exact .inl ⟨_, rfl, .restart s st⟩
  | queryPart =>
    refine .inl ⟨_, rfl, .takeHost fun rest bs => ?_⟩
    unfold runQueryPart
    split <;> exact pop rest
  | status =>
    refine .inl ⟨_, rfl, .takeHost fun rest bs => ?_⟩
    unfold runStatus
    split
    · exact pop rest
    · exact (pop rest).withHost _
  | headSet => exact .inl ⟨_, rfl, .takeHost fun rest bs => .runHeadSet (pop rest) bs⟩
  | headStatus => exact .inl ⟨_, rfl, .takeHost fun rest bs => .runHeadStatus (pop rest) bs⟩
  | headDrop => exact .inl ⟨_, rfl, .takeHost fun rest bs => .runHeadDrop (pop rest) bs⟩
  | waferOpen => exact .inl ⟨_, rfl, .takeHost fun rest bs => .runWaferOpen (pop rest) bs⟩
  | waferClose =>
    exact .inr ⟨.inr (.inl rfl), _, rfl, fun h => .takeHost fun rest bs => .runWaferClose (pop rest) bs (fits h)⟩
  | waferAbandon =>
    exact .inr ⟨.inr (.inr (.inl rfl)), _, rfl, fun h => .takeHost fun rest bs => .runWaferAbandon (pop rest) bs (fits h)⟩
  | waferResume => exact .inl ⟨_, rfl, .takeHost fun rest bs => .runWaferResume (pop rest) bs⟩
  | waferDiscard => exact .inl ⟨_, rfl, .takeHost fun rest bs => .runWaferDiscard (pop rest) bs⟩
  | waferRead => exact .inl ⟨_, rfl, .takeHost fun rest bs => by rw [runWaferRead_fst]; exact pop rest⟩
  | mapRead => exact .inr ⟨.inr (.inr (.inr rfl)), _, rfl, fun _ => .takeMapRead s⟩
  | alarmsRead => exact .inl ⟨_, rfl, .takeHost fun rest bs => by rw [runAlarmsRead_fst]; exact pop rest⟩
  | limitsStage => exact .inl ⟨_, rfl, .takeHost fun rest bs => .runLimitsStage (pop rest) bs⟩
  | limitsRead => exact .inl ⟨_, rfl, .takeHost fun rest bs => by rw [runLimitsRead_fst]; exact pop rest⟩
  | holdRelease => exact .inl ⟨_, rfl, .takeHost fun rest bs => .runHoldRelease (pop rest) bs⟩
  | waferBins => exact .inl ⟨_, rfl, .takeHost fun rest bs => by rw [runWaferBins_fst]; exact pop rest⟩
  | binsSet => exact .inl ⟨_, rfl, .takeHost fun rest bs => .runBinsSet (pop rest) bs⟩
  | binsRead =>
    refine .inl ⟨_, rfl, .takeHost fun rest bs => ?_⟩
    unfold runBinsRead
    split <;> exact pop rest
  | lampSet => exact .inl ⟨_, rfl, .takeHost fun rest bs => .runLampSet (pop rest) bs⟩
  | alertSet => exact .inl ⟨_, rfl, .takeHost fun rest bs => .runAlertSet (pop rest) bs⟩
  | lotRead => exact .inl ⟨_, rfl, .takeHost fun rest bs => .withLot (pop rest) bs fun _ _ => pop rest⟩
  | lotEnd => exact .inl ⟨_, rfl, .takeHost fun rest bs => .runLotEnd (pop rest) bs⟩
  | noticeFetch => exact .inl ⟨_, rfl, .takeHost fun rest bs => .runNoticeFetch (pop rest) bs⟩
  | pageRead => exact .inl ⟨_, rfl, .takeHost fun rest bs => by rw [runPageRead_fst]; exact pop rest⟩
  | pageWrite => exact .inl ⟨_, rfl, .takeHost fun rest bs => .runPageWrite (pop rest) bs⟩
  | pageErase => exact .inl ⟨_, rfl, .takeHost fun rest bs => .runPageErase (pop rest) bs⟩
  | partReset => exact .inl ⟨_, rfl, .takeHost fun rest bs => .runPartReset (pop rest) bs⟩
  | unknownKind =>
    refine .inl ⟨_, rfl, ?_⟩
    unfold State.unknownKind
    split
    · split
      · exact self
      · exact (pop _).withHost _
    · exact self
  | framingError p c => exact .inl ⟨_, rfl, self.headChar p c⟩
  | breakEnd p => exact .inl ⟨_, rfl, self.withPort p _⟩
  | hostFramingError c => exact .inl ⟨_, rfl, self.withHost _⟩
  | hostBreakEnd => exact .inl ⟨_, rfl, self.withHost _⟩
  | frameFinished p r =>
    exact .inl ⟨_, rfl, self.withPort p _ fun q hq => by rw [Port.finishSend_settings]; exact hq⟩

theorem State.guardCells_next {s t u : State} (h : s.guardCells t = .next u) : s.cellsExist = true ∧ u = t := by
  unfold State.guardCells at h
  split at h
  · next hc => cases h; exact ⟨hc, rfl⟩
  · cases h

/-- Every command keeps the queue of waiting commands and the laws of the store and the settings. -/
theorem exec_keepsStore {c : Instr} {s t : State} (h : exec c s = .next t) : s.KeepsStore t := by
  rcases exec_cases c s with ⟨u, he, hk⟩ | ⟨-, u, he, hk⟩
  · rw [he] at h; cases h; exact hk
  · rw [he] at h
    obtain ⟨hc, rfl⟩ := State.guardCells_next h
    exact hk hc

/-- Every step keeps the laws of the store and the settings. -/
theorem step_storeLaw {s t : State} (hs : s.StoreLaw) (h : step s = .next t) : t.StoreLaw := by
  unfold step at h
  split at h
  · cases h; exact (State.KeepsStore.tick s).law hs
  · exact (exec_keepsStore h).law (hs.same rfl)

theorem State.Sound.storeLaw {s : State} (h : s.Sound) : s.StoreLaw :=
  s.storeLaw_iff.mpr ⟨h.map, h.block, h.settings⟩

/-- Settles O7: every command keeps the laws of the map and of the blocks together with those of the settings. -/
theorem stepsKeepTheStoreLaws : Obligations.StepsKeepTheStoreLaws := by
  intro s t hs h
  obtain ⟨hm, hb, -⟩ := t.storeLaw_iff.mp (step_storeLaw hs.storeLaw h)
  exact ⟨hm, hb⟩

/-! ### Accepted profiles (R87, R88) -/

theorem runLimitOk_iff (n : Nat) : runLimitOk n = true ↔ n = 0 ∨ 2 ≤ n ∧ n ≤ 255 := by simp [runLimitOk]

theorem pairOk_iff (warn hold : Nat) : pairOk warn hold = true ↔ (warn ≠ 0 → hold ≠ 0 → warn ≤ hold) := by
  simp only [pairOk, Bool.or_eq_true, beq_iff_eq, decide_eq_true_eq]
  omega

theorem Watched.inRange_iff (e : Watched) :
    e.inRange = true ↔ 1 ≤ e.bin ∧ e.bin ≤ 63 ∧ e.warn ≤ 4096 ∧ e.hold ≤ 4096 := by simp [Watched.inRange, and_assoc]

/-- Settles O14: the law of the settings is one of those every command keeps, and acceptance is read off its two
checks. -/
theorem stepsKeepTheSettingsLaw : Obligations.StepsKeepTheSettingsLaw := by
  refine ⟨fun s t hs h => ?_, fun prof => ?_⟩
  · obtain ⟨-, -, hp⟩ := t.storeLaw_iff.mp (step_storeLaw hs.storeLaw h)
    exact hp
  · simp only [Profile.accepted, Profile.wellFormed, Profile.consistent, Bool.and_eq_true, decide_eq_true_eq,
      List.all_eq_true, runLimitOk_iff, pairOk_iff, Watched.inRange_iff, and_assoc]

/-! ### No command is refused a meaning, and sound states go on -/

/-- Settles O4: by the two forms of answer a command has. -/
theorem everyCommandCompletes : Obligations.EveryCommandCompletes := by
  refine fun c s => ⟨fun hc => ?_, fun t h => (exec_keepsStore h).pending, fun hl h1 h2 h3 => ?_, fun r hr => ?_⟩
  · rcases exec_cases c s with ⟨t, he, -⟩ | ⟨-, t, he, -⟩
    · exact ⟨t, he⟩
    · exact ⟨t, he.trans (State.guardCells_true hc t)⟩
  · rcases exec_cases c s with ⟨t, he, -⟩ | ⟨⟨p, hp⟩ | hc | hc | hc, -⟩
    · exact ⟨t, he⟩
    · exact absurd hp (hl p)
    · exact absurd hc h1
    · exact absurd hc h2
    · exact absurd hc h3
  · rcases exec_cases c s with ⟨t, he, -⟩ | ⟨-, t, he, -⟩
    · rw [he] at hr; cases hr
    · rw [he, State.guardCells] at hr
      split at hr <;> cases hr

theorem gridOk_iff (rows columns : Nat) : gridOk rows columns = true ↔
    1 ≤ rows ∧ rows ≤ 1024 ∧ 1 ≤ columns ∧ columns ≤ 1024 ∧ rows * columns ≤ 262144 := by
  simp [gridOk, and_assoc]

/-- Every die of a wafer has a cell of the store (R7, R8). -/
theorem State.BlockLaw.grid_inside {s : State} (h : s.BlockLaw) {i : SlotId} {w : Wafer} (hw : s.waferAt i = some w) :
    w.base + w.rows * w.columns ≤ storeCells := by
  obtain ⟨hg, hs, -, hin⟩ := h.1 i w hw
  obtain ⟨-, -, -, -, hd⟩ := (gridOk_iff _ _).mp hg
  have := le_blockSizeFor hd
  omega

/-- A die of the grid has its cell within the grid's cells (R6). -/
theorem Wafer.cellAddress_lt {w : Wafer} {column row : Nat} (hc : column < w.columns) (hr : row < w.rows) :
    w.cellAddress column row < w.base + w.rows * w.columns := by
  have : (row + 1) * w.columns ≤ w.rows * w.columns := Nat.mul_le_mul_right _ hr
  rw [Nat.add_mul, Nat.one_mul] at this
  unfold Wafer.cellAddress
  omega

/-- The records of a sound state name only cells that exist (R8, R49). -/
theorem State.Sound.cellsExist {s : State} (h : s.Sound) : s.cellsExist = true := by
  refine (State.cellsExist_iff s).mpr ⟨fun i w hw => h.block.grid_inside hw, fun p e he i w hr hw d hd => ?_⟩
  obtain ⟨-, -, entries, -⟩ := h.touchdown.1 p
  obtain ⟨⟨j, hj, v, hv, -, -, sites⟩, -⟩ := entries e he
  cases hr.symm.trans hj
  cases hw.symm.trans hv
  obtain ⟨hc, hrow, -⟩ := sites d hd
  exact Nat.lt_of_lt_of_le (Wafer.cellAddress_lt hc hrow) (h.block.grid_inside hw)

/-- Settles O6: a sound state's records name only cells that exist, so whatever command waits answers. -/
theorem soundStatesStep : Obligations.SoundStatesStep := by
  intro s hs
  unfold step
  split
  · exact ⟨_, rfl⟩
  · next c rest _ => exact (everyCommandCompletes c _).1 hs.cellsExist

end Sys2Proof.Machine
end

section
/-! PROOFS. The values at reset, an entry's sites in order, placement and the lot entry a wafer joins (O3, O29, O54). -/
namespace Sys2Proof.Machine

/-! ### Values at reset -/

theorem factoryBins_values : tabGet factoryBins 0 = .unused ∧ tabGet factoryBins 1 = .pass ∧
    ∀ b : Bin, 2 ≤ b.val → tabGet factoryBins b = .fail := by decide

/-- Settles O3: each table at reset is one value repeated, and an erased page is BLANK. -/
theorem resetValues : Obligations.ResetValues := by
  have slot : ∀ i, tabGet State.reset.slots i = ⟨0, none⟩ := tabGet_replicate _
  have port : ∀ p, State.reset.port p = Port.reset := tabGet_replicate _
  have page : ∀ i, tabGet State.reset.profilePages i = PageBytes.erased := tabGet_replicate _
  have byte : ∀ k, tabGet PageBytes.erased k = .erased := tabGet_replicate _
  refine ⟨fun _ => rfl, factoryBins_values, fun i => ⟨?_, ?_⟩, tabGet_replicate _, fun p => ?_, rfl, rfl,
    ⟨rfl, rfl, rfl, rfl, rfl, rfl, rfl⟩, ⟨rfl, rfl, rfl⟩, rfl, ⟨?_, fun i => ?_, fun k => ⟨byte k, fun i => ?_⟩⟩,
    rfl, rfl⟩
  · rw [State.waferAt, slot]
  · rw [slot]
  · rw [port]
    exact ⟨rfl, rfl, rfl, rfl, rfl, rfl, rfl, rfl, rfl, rfl, rfl, rfl, rfl, rfl, rfl, rfl⟩
  · exact PageBytes.judge_erased _
  · rw [State.profilePage, page, PageBytes.judge_erased]
  · rw [page, byte]

/-! ### An entry's sites in ascending order (R68) -/

/-- The sites of distinct numbers, gathered number by number, have rising numbers. -/
theorem Entry.ascending_pairwise {e : Entry} (h : (e.sites.map (·.number)).Nodup) :
    e.ascending.Pairwise fun c d => c.number < d.number := by
  have number_of_mem : ∀ {n d}, d ∈ e.sites.filter (fun d => d.number = n) → d.number = n := fun hd => by
    simpa using (List.mem_filter.mp hd).2
  unfold Entry.ascending
  rw [List.pairwise_flatMap]
  refine ⟨fun n _ => ?_, ?_⟩
  · have distinct : (e.sites.filter fun d => d.number = n).Pairwise fun c d => c.number ≠ d.number :=
      (List.pairwise_map.mp h).filter _
    exact distinct.imp_of_mem fun hc hd hne => absurd ((number_of_mem hc).trans (number_of_mem hd).symm) hne
  · have rising : siteIds.Pairwise (· < ·) := by decide
    exact rising.imp fun hlt c hc d hd => by rw [number_of_mem hc, number_of_mem hd]; exact hlt

theorem Entry.ascending_perm {e : Entry} (h : (e.sites.map (·.number)).Nodup) : e.ascending.Perm e.sites := by
  have rising : e.ascending.Nodup := (Entry.ascending_pairwise h).imp fun hlt heq => absurd (heq ▸ hlt) (lt_irrefl _)
  exact (List.perm_ext_iff_of_nodup rising (.of_map _ h)).mpr fun _ => Entry.mem_ascending

/-- Settles O29: the order is that of the site numbers, and the effects are the definition's. -/
theorem entriesAreAppliedWhole : Obligations.EntriesAreAppliedWhole := by
  refine ⟨fun e h => ⟨e.ascending_perm h, e.ascending_pairwise h⟩, fun s e i w hr _ => ?_⟩
  rw [State.applyEntry, hr]
  rfl

/-! ### Placement (R7, R8, R12) -/

/-- What is found first in a list in order comes before every other member that passes. -/
theorem find?_first {α : Type} {R : α → α → Prop} {p : α → Bool} {xs : List α} {a : α} (sorted : xs.Pairwise R)
    (h : xs.find? p = some a) {z : α} (hz : z ∈ xs) (hp : p z = true) : z = a ∨ R a z := by
  obtain ⟨-, before, after, rfl, none_before⟩ := List.find?_eq_some_iff_append.mp h
  rcases List.mem_append.mp hz with hz | hz
  · exact absurd hp (by simpa using none_before z hz)
  · rcases List.mem_cons.mp hz with rfl | hz
    · exact .inl rfl
    · exact .inr ((List.pairwise_cons.mp (List.pairwise_append.mp sorted).2.1).1 z hz)

/-- The member found in a list of rising numbers is the least that passes. -/
theorem find?_rising_iff {p : Nat → Bool} {xs : List Nat} (sorted : xs.Pairwise (· < ·)) (a : Nat) :
    xs.find? p = some a ↔ a ∈ xs ∧ p a = true ∧ ∀ z ∈ xs, z < a → p z = false := by
  constructor
  · intro h
    refine ⟨List.mem_of_find?_eq_some h, List.find?_some h, fun z hz hlt => ?_⟩
    by_contra hp
    rcases find?_first sorted h hz (by simpa using hp) with e | e <;> omega
  · rintro ⟨ha, hp, least⟩
    cases hf : xs.find? p with
    | none => exact absurd hp (by simpa using List.find?_eq_none.mp hf a ha)
    | some b =>
      rcases find?_first sorted hf ha hp with e | e
      · rw [e]
      · have := least b (List.mem_of_find?_eq_some hf) e
        rw [List.find?_some hf] at this
        cases this

theorem blockSizeFor_le {n z : Nat} (hz : z ∈ blockSizes) (h : n ≤ z) : blockSizeFor n ≤ z := by
  have rising : blockSizes.Pairwise (· < ·) := by decide
  unfold blockSizeFor
  cases hf : blockSizes.find? fun z => decide (n ≤ z) with
  | none => exact absurd h (by simpa using List.find?_eq_none.mp hf z hz)
  | some y =>
    rcases find?_first rising hf hz (by simpa using h) with e | e
    · exact e ▸ Nat.le_refl _
    · exact Nat.le_of_lt e

/-- The block sizes divide the store. -/
theorem blockSizes_dvd : ∀ z ∈ blockSizes, 0 < z ∧ z ∣ storeCells := by decide

/-- The aligned bases in the store. -/
theorem mem_bases {size : Nat} (hz : size ∈ blockSizes) (c : Nat) :
    c ∈ (List.range (storeCells / size)).map (· * size) ↔ size ∣ c ∧ c + size ≤ storeCells := by
  obtain ⟨hpos, hdvd⟩ := blockSizes_dvd size hz
  rw [List.mem_map]
  constructor
  · rintro ⟨k, hk, rfl⟩
    refine ⟨Nat.dvd_mul_left _ _, ?_⟩
    have := (Nat.le_div_iff_mul_le hpos).mp (List.mem_range.mp hk)
    rwa [Nat.succ_mul] at this
  · rintro ⟨⟨k, rfl⟩, hin⟩
    refine ⟨k, List.mem_range.mpr ((Nat.le_div_iff_mul_le hpos).mpr ?_), Nat.mul_comm _ _⟩
    rwa [Nat.succ_mul, Nat.mul_comm]

/-- Which base a block is placed at: the lowest aligned one in the store whose span is free (R8). -/
theorem placeBlock_eq_some_iff {blocks : List (Nat × Nat)} {size base : Nat} (hz : size ∈ blockSizes) :
    placeBlock blocks size = some base ↔
      (size ∣ base ∧ base + size ≤ storeCells ∧ spanFree blocks base size = true) ∧
      ∀ c, c < base → size ∣ c → ¬spanFree blocks c size = true := by
  obtain ⟨hpos, -⟩ := blockSizes_dvd size hz
  have rising : ((List.range (storeCells / size)).map (· * size)).Pairwise (· < ·) :=
    List.pairwise_map.mpr (List.pairwise_lt_range.imp fun hlt => Nat.mul_lt_mul_of_pos_right hlt hpos)
  unfold placeBlock
  rw [find?_rising_iff rising, mem_bases hz]
  simp only [mem_bases hz, Bool.not_eq_true]
  constructor
  · rintro ⟨⟨hd, hin⟩, hf, least⟩
    exact ⟨⟨hd, hin, hf⟩, fun c hc hdc => least c ⟨hdc, by omega⟩ hc⟩
  · rintro ⟨⟨hd, hin, hf⟩, least⟩
    exact ⟨⟨hd, hin⟩, hf, fun c ⟨hdc, _⟩ hc => least c hc hdc⟩

/-- The largest placeable size can be placed and is the largest that can, or none can and it is 0 (R12). -/
theorem State.largestPlaceable_cases (s : State) :
    (s.largestPlaceable ∈ blockSizes ∧ (placeBlock s.blocks s.largestPlaceable).isSome = true ∧
      ∀ z ∈ blockSizes, (placeBlock s.blocks z).isSome = true → z ≤ s.largestPlaceable) ∨
    s.largestPlaceable = 0 ∧ ∀ z ∈ blockSizes, placeBlock s.blocks z = none := by
  have falling : blockSizes.reverse.Pairwise (· > ·) := by decide
  unfold State.largestPlaceable
  cases hf : blockSizes.reverse.find? fun z => (placeBlock s.blocks z).isSome with
  | none => exact .inr ⟨rfl, fun z hz => by simpa using List.find?_eq_none.mp hf z (List.mem_reverse.mpr hz)⟩
  | some y =>
    have placed : (placeBlock s.blocks y).isSome = true := List.find?_some (p := fun z => (placeBlock s.blocks z).isSome) hf
    refine .inl ⟨List.mem_reverse.mp (List.mem_of_find?_eq_some hf), placed, fun z hz hp => ?_⟩
    rcases find?_first falling hf (List.mem_reverse.mpr hz) hp with e | e
    · exact e ▸ Nat.le_refl _
    · exact Nat.le_of_lt e

/-! ### The lot entry a wafer joins (R132) -/

theorem State.lotHolding_some {s : State} {lot : List Byte} {l : LotId} (h : s.lotHolding lot = some l) :
    ∃ e ∈ tabGet s.lots l, e.lotText = lot := by
  have := List.find?_some h
  simpa [Option.any_eq_true] using this

theorem State.lotHolding_none {s : State} {lot : List Byte} (h : ∀ j, ∀ e ∈ tabGet s.lots j, e.lotText ≠ lot) :
    s.lotHolding lot = none := by
  refine List.find?_eq_none.mpr fun j _ hj => ?_
  obtain ⟨e, he, ht⟩ := (Option.any_eq_true _ _).mp hj
  exact h j e he (by simpa using ht)

/-- The entry that holds a lot id is the one found, where no two hold one (R131, R132). -/
theorem State.lotHolding_eq {s : State} {lot : List Byte} {l : LotId} {e : Lot}
    (distinct : ∀ j k, ∀ d ∈ tabGet s.lots j, ∀ e ∈ tabGet s.lots k, d.lotText = e.lotText → j = k)
    (he : e ∈ tabGet s.lots l) (ht : e.lotText = lot) : s.lotHolding lot = some l := by
  cases h : s.lotHolding lot with
  | none =>
    refine absurd (List.find?_eq_none.mp h l (mem_lotIds l)) (not_not_intro ?_)
    exact (Option.any_eq_true _ _).mpr ⟨e, he, by simpa using ht⟩
  | some k =>
    obtain ⟨d, hd, hdt⟩ := State.lotHolding_some h
    rw [distinct k l d hd e he (hdt.trans ht.symm)]

/-- An entry in use that holds the lot id is joined unless its opened count is at its top (R132). -/
theorem State.lotFor_of_holding {s : State} {lot : List Byte} {l : LotId} {e : Lot} (h : s.lotHolding lot = some l)
    (he : tabGet s.lots l = some e) : s.lotFor lot = if e.opened = countCap then none else some l := by
  unfold State.lotFor
  rw [h]
  simp only [he, Option.any_some, beq_iff_eq]

theorem State.lotFor_of_none {s : State} {lot : List Byte} (h : s.lotHolding lot = none) :
    s.lotFor lot = lotIds.find? fun l => (tabGet s.lots l).isNone := by
  unfold State.lotFor
  rw [h]

/-- The free entry of lowest index. -/
theorem State.firstFreeLot {s : State} {l : LotId} (hl : tabGet s.lots l = none) (hj : ∀ j < l, tabGet s.lots j ≠ none) :
    (lotIds.find? fun l => (tabGet s.lots l).isNone) = some l := by
  have rising : lotIds.Pairwise (· < ·) := by decide
  cases h : lotIds.find? fun l => (tabGet s.lots l).isNone with
  | none => exact absurd (List.find?_eq_none.mp h l (mem_lotIds l)) (by simp [hl])
  | some k =>
    rcases find?_first rising h (mem_lotIds l) (by simp [hl]) with e | e
    · rw [e]
    · exact absurd (by simpa using List.find?_some h) (hj k e)

/-- Settles O54: by the parts above, what is found in a rising list being the least that passes. -/
theorem placementAndLotsFollowTheirRules : Obligations.PlacementAndLotsFollowTheirRules := by
  refine ⟨State.mem_blocks, spanFree_iff,
    fun n _ hn => ⟨blockSizeFor_mem n, le_blockSizeFor hn, fun z hz h => blockSizeFor_le hz h⟩,
    fun blocks size base hz => ?_, fun s lot l distinct => ⟨?_, ?_, fun hno hl hj => ?_, fun hall => ?_⟩,
    fun m base size a => mapRead_mapClear m base size a, fun s => ?_⟩
  · rw [placeBlock_eq_some_iff hz]
    simp only [spanFree_iff]
    rfl
  · rintro ⟨e, he, ht, ho⟩
    rw [State.lotFor_of_holding (State.lotHolding_eq distinct he ht) he]
    exact if_neg (Nat.ne_of_lt ho)
  · rintro ⟨e, he, ht, ho⟩
    rw [State.lotFor_of_holding (State.lotHolding_eq distinct he ht) he]
    exact if_pos ho
  · rw [State.lotFor_of_none (State.lotHolding_none hno), State.firstFreeLot hl hj]
  · have holds_other : ∀ j, ∀ e ∈ tabGet s.lots j, e.lotText ≠ lot := fun j e he => by
      obtain ⟨d, hd, hne⟩ := hall j
      cases he.symm.trans hd
      exact hne
    rw [State.lotFor_of_none (State.lotHolding_none holds_other)]
    refine List.find?_eq_none.mpr fun j _ => ?_
    obtain ⟨d, hd, -⟩ := hall j
    simp [Option.mem_def.mp hd]
  · rcases s.largestPlaceable_cases with ⟨hm, hp, hmax⟩ | ⟨h0, hnone⟩
    · exact ⟨hmax, .inl ⟨hm, hp⟩⟩
    · refine ⟨fun z hz hp => ?_, .inr ⟨h0, hnone⟩⟩
      rw [hnone z hz] at hp
      cases hp

end Sys2Proof.Machine
end

section
/-! PROOFS. Handles, and the reads that answer from a wafer's record and from its cells (O48, O49). -/
namespace Sys2Proof.Machine

/-! ### Commands that answer and change nothing else (R168) -/

/-- A command whose block leaves the state alone is taken and answered. -/
theorem State.takeHost_answer {s : State} {k : Byte} {bs : List Byte} {rest : List Frame} (h : s.HostFinds k bs rest)
    {run : State → List Byte → Answer} {payload : List Byte}
    (hr : run (s.popHost rest) bs = (s.popHost rest, payload)) : s.takeHost k run = s.answered rest k payload := by
  rw [State.takeHost_finds h, hr, State.compose_popHost]

/-- A command that checks the length of its payload first refuses a wrong one with BAD_LENGTH. -/
theorem refusesLength_of {c : Instr} {k : Byte} {run : State → List Byte → Answer}
    (he : ∀ s : State, s.cellsExist = true → exec c s = .next (s.takeHost k run))
    (hr : ∀ s bs, wrongLength k bs → run s bs = s.refuse .badLength) : RefusesLength c k := by
  intro s bs rest hc hf hl
  rw [he s hc, State.takeHost_answer hf (hr _ bs hl)]
  rfl

/-- The length rules of Table 9-2 for the reads of this chapter. -/
theorem wrongLength_read {k : Byte} (h : k ∈ [0x4D, 0x4F, 0x51, 0x53, 0x58, 0x5C]) {bs : List Byte}
    (hl : wrongLength k bs) : bs.length ≠ 1 := by
  simp only [List.mem_cons, List.not_mem_nil, or_false] at h
  rcases h with rfl | rfl | rfl | rfl | rfl | rfl <;> exact hl

theorem wrongLength_bare {k : Byte} (h : k ∈ [0x40, 0x55]) {bs : List Byte} (hl : wrongLength k bs) : bs ≠ [] := by
  simp only [List.mem_cons, List.not_mem_nil, or_false] at h
  rcases h with rfl | rfl <;> exact fun e => hl (e ▸ rfl)

/-! ### Handles (R19) -/

/-- Which slot a handle names. -/
theorem State.resolve_eq_some_iff (s : State) (h : Byte) (i : SlotId) : s.resolve h = some i ↔
    h.toNat % 16 = i.val ∧ (s.waferAt i).isSome = true ∧ (tabGet s.slots i).generation.toNat = h.toNat / 16 := by
  unfold State.resolve
  constructor
  · intro hr
    split at hr
    · dsimp only at hr
      split at hr
      · next hc => cases hr; exact ⟨rfl, hc⟩
      · cases hr
    · cases hr
  · rintro ⟨hi, hc⟩
    have lt : h.toNat % 16 < 12 := hi ▸ i.isLt
    have slot : (⟨h.toNat % 16, lt⟩ : SlotId) = i := Fin.ext hi
    rw [dif_pos lt]
    dsimp only
    rw [slot, if_pos hc]

/-! ### The reads of a wafer's record (R38, R39, R108, R120) -/

/-- The entries of a fixed table are those of its indexes in ascending order. -/
theorem tabList_eq_map {α : Type} {n : Nat} (v : Vector α n) : tabList v = (List.finRange n).map (tabGet v) := by
  apply List.ext_getElem
  · simp [tabList]
  · intro i _ _
    simp [tabList, tabGet]

theorem sources_eq : sources = List.finRange 26 := by decide

/-- The characters of an alarm record by its fields (R120). -/
theorem Alarm.chars_eq (a : Alarm) : a.chars =
    [a.state.code, match a.level with | none => 0 | some .warn => 1 | some .hold => 2,
    if a.acked = true then 1 else 0, BitVec.ofNat 8 a.count] := by
  unfold Alarm.chars
  rcases a.level with _ | _ | _ <;> rfl

theorem alarmChars_eq (v : Vector Alarm 26) :
    (tabList v).flatMap Alarm.chars = sources.flatMap fun src => (tabGet v src).chars := by
  rw [tabList_eq_map, sources_eq, List.flatMap_map]

section
variable {s : State} {h : Byte} {rest : List Frame}

/-- An unknown handle is answered UNKNOWN_WAFER, whatever the command would read. -/
theorem State.answer_unknown {k : Byte} {run : State → List Byte → Answer} {f : State → SlotId → Wafer → Answer}
    (hf : s.HostFinds k [h] rest) (hr : s.resolve h = none) (hrun : ∀ u : State, run u [h] = u.withHandle h (f u)) :
    s.takeHost k run = s.answered rest k [4] :=
  State.takeHost_answer hf ((hrun _).trans (State.withHandle_none _ hr))

variable {i : SlotId} {w : Wafer}

/-- A known handle is answered with what the command reads from the record. -/
theorem State.answer_known {k : Byte} {run : State → List Byte → Answer} {chars : Wafer → List Byte}
    (hf : s.HostFinds k [h] rest) (hr : s.resolve h = some i) (hw : s.waferAt i = some w)
    (hrun : ∀ u : State, run u [h] = u.withHandle h fun _ w => u.accept (chars w)) :
    s.takeHost k run = s.answered rest k (0 :: chars w) :=
  State.takeHost_answer hf ((hrun _).trans (State.withHandle_some _ hr hw))

end

theorem runWaferRead_eq (s : State) (h : Byte) :
    runWaferRead s [h] = s.withHandle h fun _ w => s.accept (w.summary h) := rfl

theorem runWaferBins_eq (s : State) (h : Byte) :
    runWaferBins s [h] = s.withHandle h fun _ w => s.accept (h :: binCounterChars w.bins) := rfl

theorem runAlarmsRead_eq (s : State) (h : Byte) :
    runAlarmsRead s [h] = s.withHandle h fun _ w => s.accept (h :: (tabList w.alarms).flatMap Alarm.chars) := rfl

theorem runLimitsRead_eq (s : State) (h : Byte) : runLimitsRead s [h] =
    s.withHandle h fun _ w => s.accept (h :: w.activeSource :: w.active.image ++ stagedChars w.staged) := rfl

theorem stagedChars_eq (o : Option Staged) :
    stagedChars o = match o with | none => [0] | some st => st.source :: st.profile.image := by
  cases o <;> rfl

/-- The wafer summary with its codes written out (Table 9-9). -/
theorem Wafer.summary_eq (w : Wafer) (h : Byte) : 0 :: w.summary h =
    ([0, h, (match w.state with | .active => 1 | .draining => 2 | .suspended => 3 | .closed => 4 | .abandoned => 5),
      match w.closeCause with | none => 0 | some .unloaded => 1 | some .forced => 2 | some .headLost => 3] : List Byte) ++
    w.lotText ++ ([(match w.lotEntry with | none => 0xFF | some l => BitVec.ofNat 8 l.val), w.number] : List Byte) ++
    write2 w.rows ++ write2 w.columns ++ write3 w.base ++ write3 w.size ++
    ([(match w.policy with | .first => 0 | .last => 1 | .best => 2),
      match w.boundPort with | none => 0xFF | some p => BitVec.ofNat 8 p.val] : List Byte) ++
    write4 w.serial.toNat ++ [w.activeSource, match w.staged with | none => 0 | some st => st.source] ++
    write4 w.revision.toNat ++ write3 w.tested ++ write3 w.passDies ++ write3 w.failDies ++
    write3 w.resultsApplied ++ write3 w.retestResults ++ write3 w.excessResults ++
    write3 w.missingSites ++ write3 w.skippedSites ++ write3 w.touchdownsApplied ++ write3 w.touchdownsVoided ++
    write3 w.windowsClosed ++ write3 w.alarmsRaised ++ write3 w.run ++
    write2 w.window.count ++ write2 w.window.pass ++ write2 w.window.fail ++
    siteIds.flatMap fun n => write2 (tabGet w.window.siteResults n) ++ write2 (tabGet w.window.siteFails n) := by
  have state : w.state.code =
      match w.state with | .active => 1 | .draining => 2 | .suspended => 3 | .closed => 4 | .abandoned => 5 := by
    cases w.state <;> rfl
  have cause : causeChar w.closeCause =
      match w.closeCause with | none => 0 | some .unloaded => 1 | some .forced => 2 | some .headLost => 3 := by
    rcases w.closeCause with _ | _ | _ | _ <;> rfl
  have lot : lotChar w.lotEntry = match w.lotEntry with | none => 0xFF | some l => BitVec.ofNat 8 l.val := by
    cases w.lotEntry <;> rfl
  have policy : w.policy.code = match w.policy with | .first => 0 | .last => 1 | .best => 2 := by cases w.policy <;> rfl
  have port : portChar w.boundPort = match w.boundPort with | none => 0xFF | some p => BitVec.ofNat 8 p.val := by
    cases w.boundPort <;> rfl
  have source : (w.staged.map (·.source)).getD 0 = match w.staged with | none => 0 | some st => st.source := by
    cases w.staged <;> rfl
  unfold Wafer.summary
  simp only [state, cause, lot, policy, port, source, List.cons_append, List.nil_append, List.append_assoc]

/-- Settles O48: each read is one answer through the handle, and its characters are the record's fields. -/
theorem waferReadsAnswerTheRecord : Obligations.WaferReadsAnswerTheRecord := by
  refine ⟨refusesLength_of (fun _ _ => rfl) fun _ _ hl => if_pos (wrongLength_read (by decide) hl),
    refusesLength_of (fun _ _ => rfl) fun _ _ hl => if_pos (wrongLength_read (by decide) hl),
    refusesLength_of (fun _ _ => rfl) fun _ _ hl => if_pos (wrongLength_read (by decide) hl),
    refusesLength_of (fun _ _ => rfl) fun _ _ hl => if_pos (wrongLength_read (by decide) hl),
    fun s h k c rest hm hf hr => ?_, State.resolve_eq_some_iff, fun s h => Option.eq_none_iff_forall_ne_some,
    fun _ _ => rfl, fun _ => ⟨rfl, rfl, rfl⟩,
    fun s h i w rest hr hw => ⟨fun hf => ?_, fun hf => ?_, fun hf => ?_, fun hf => ?_⟩⟩
  · simp only [List.mem_cons, List.not_mem_nil, or_false, Prod.mk.injEq] at hm
    rcases hm with ⟨rfl, rfl⟩ | ⟨rfl, rfl⟩ | ⟨rfl, rfl⟩ | ⟨rfl, rfl⟩
    · exact congrArg Host.Outcome.next (State.answer_unknown hf hr (runWaferRead_eq · h))
    · exact congrArg Host.Outcome.next (State.answer_unknown hf hr (runWaferBins_eq · h))
    · exact congrArg Host.Outcome.next (State.answer_unknown hf hr (runAlarmsRead_eq · h))
    · exact congrArg Host.Outcome.next (State.answer_unknown hf hr (runLimitsRead_eq · h))
  · have answer := State.answer_known hf hr hw (runWaferRead_eq · h)
    rw [Wafer.summary_eq] at answer
    exact congrArg Host.Outcome.next answer
  · exact congrArg Host.Outcome.next (State.answer_known hf hr hw (runWaferBins_eq · h))
  · have answer := State.answer_known hf hr hw (runAlarmsRead_eq · h)
    simp only [alarmChars_eq, Alarm.chars_eq] at answer
    exact congrArg Host.Outcome.next answer
  · have answer := State.answer_known hf hr hw (runLimitsRead_eq · h)
    rw [stagedChars_eq] at answer
    exact congrArg Host.Outcome.next answer

/-! ### MAP_READ (R13) -/

/-- The first index of a MAP_READ reads back as its three characters. -/
theorem write3_read3 (a b c : Byte) : write3 ((a.toNat * 256 + b.toNat) * 256 + c.toNat) = [a, b, c] := by
  have ha := a.isLt
  have hb := b.isLt
  have hc := c.isLt
  simp only [write3, write2, List.cons.injEq, and_true]
  refine ⟨?_, ?_, ?_⟩ <;> apply BitVec.eq_of_toNat_eq <;> simp only [BitVec.toNat_ofNat] <;> omega

theorem write1_toNat (n : Byte) : write1 n.toNat = [n] := by
  rw [write1, BitVec.ofNat_toNat, BitVec.setWidth_eq]

/-- MAP_READ by the characters of its payload. -/
theorem runMapRead_eq (s : State) (h f2 f1 f0 n : Byte) : runMapRead s [h, f2, f1, f0, n] =
    if n.toNat = 0 ∨ 240 < n.toNat then s.refuse .badArg
    else s.withHandle h fun _ w =>
      if w.rows * w.columns < (f2.toNat * 256 + f1.toNat) * 256 + f0.toNat + n.toNat then s.refuse .badArg
      else s.accept (h :: write4 w.revision.toNat ++ [f2, f1, f0] ++ [n] ++
        s.readCells w ((f2.toNat * 256 + f1.toNat) * 256 + f0.toNat) n.toNat) := by
  have first : read3 [h, f2, f1, f0, n] 1 = (f2.toNat * 256 + f1.toNat) * 256 + f0.toNat := by
    simp only [read3, read2, read1, charAt, List.getD_cons_succ, List.getD_cons_zero, Nat.reduceAdd]
    omega
  have count : read1 [h, f2, f1, f0, n] 4 = n.toNat := rfl
  unfold runMapRead
  rw [if_neg (by simp), first, count, write3_read3, write1_toNat]
  rfl

/-- Settles O49: by the three checks in their order. -/
theorem mapReadsAnswerTheCells : Obligations.MapReadsAnswerTheCells := by
  refine ⟨refusesLength_of (fun s hc => State.guardCells_true hc _) fun _ _ hl => if_pos hl,
    fun s h f2 f1 f0 n rest hc hf => ?_⟩
  refine (State.guardCells_true hc _).trans (congrArg _ ?_)
  rw [State.takeHost_finds hf, runMapRead_eq]
  dsimp only
  split
  · rfl
  · cases hr : s.resolve h with
    | none => rw [State.withHandle_none _ (by rw [State.resolve_popHost, hr])]; rfl
    | some i =>
      obtain ⟨w, hw⟩ := State.waferAt_resolve hr
      rw [State.withHandle_some _ (by rw [State.resolve_popHost, hr]) (by rw [State.waferAt_popHost, hw]),
        Option.bind_some, hw]
      dsimp only
      split
      · rfl
      · simp only [State.readCells, Nat.add_assoc, State.accept_fst, State.accept_snd, State.popHost_map]
        simp only [List.cons_append, List.nil_append, List.append_assoc]
        rfl

end Sys2Proof.Machine
end

section
/-! PROOFS. The reads that answer from the tables, the lots and the pages (O50). -/
namespace Sys2Proof.Machine

/-! ### Table reads (R4, R129, R137, R161, R178) -/

theorem slotIds_eq : slotIds = List.finRange 12 := by decide

theorem portIds_eq : portIds = List.finRange 4 := by decide

theorem tabList_slots (s : State) : tabList s.slots = slotIds.map (tabGet s.slots) := by
  rw [tabList_eq_map, slotIds_eq]

/-- The bound members of a lot entry, slot by slot (R137). -/
theorem State.boundMembers_eq (s : State) (l : LotId) : s.boundMembers l =
    (slotIds.filter fun i => (s.waferAt i).any fun w => w.state.isBound && w.lotEntry == some l).length := by
  unfold State.boundMembers
  rw [tabList_slots, List.filter_map, List.length_map]
  rfl

theorem runBinsRead_nil (s : State) : runBinsRead s [] = s.accept (binChars s.bins) := rfl

theorem runQueryPart_nil (s : State) : runQueryPart s [] = s.accept s.identity.chars := rfl

theorem binChars_eq (t : Vector BinClass 64) : binChars t = (List.finRange 64).map fun b => (tabGet t b).code := by
  rw [binChars, tabList_eq_map, List.map_map]
  rfl

/-- The identity fields of the part (R178). -/
theorem Identity.chars_eq (d : Identity) : d.chars = [0x0B, 0x71, 0x04, 0x16, d.revision] ++ write4 d.serial.toNat ++
    [4, 16, 12, 4, 0x10, 0, 0, 32, 8] := by
  simp only [Identity.chars, List.append_assoc]
  rfl

/-- A lamp table's characters by its entries in rank order (R129). -/
theorem LampTable.chars_eq (t : LampTable) :
    t.chars = [t.hold, t.warn, t.lost, t.probing, t.idle].flatMap LampEntry.chars := by
  simp [LampTable.chars]

theorem Defaults.chars_eq (d : Defaults) : d.chars = ((List.finRange 64).map fun b => (tabGet d.bins b).code) ++
    ([d.lampTable.hold, d.lampTable.warn, d.lampTable.lost, d.lampTable.probing, d.lampTable.idle].flatMap
      LampEntry.chars) ++
    (portIds.flatMap fun p => (tabGet d.lines p).chars) ++ [flagChar d.alertEnable] ++ d.profile.image := by
  rw [Defaults.chars, binChars_eq, LampTable.chars_eq, tabList_eq_map, portIds_eq, List.flatMap_map]

/-- A lot index of a LOT_READ names the entry of that index, where there is one. -/
theorem lotOf_eq (n : Nat) : lotOf n = lotIds.find? fun l => l.val = n := by
  unfold lotOf
  split
  · next h =>
    have : n = 0 ∨ n = 1 ∨ n = 2 ∨ n = 3 := by omega
    rcases this with rfl | rfl | rfl | rfl <;> rfl
  · next h =>
    refine (List.find?_eq_none.mpr fun l _ => ?_).symm
    have := l.isLt
    simp only [decide_eq_true_eq]
    omega

theorem runLotRead_eq (s : State) (n : Byte) : runLotRead s [n] =
    match lotOf n.toNat with
    | none => s.refuse .badArg
    | some l =>
      match tabGet s.lots l with
      | none => s.refuse .noLot
      | some e => s.accept (e.chars l (s.boundMembers l)) := rfl

/-- PAGE_READ by the id of the page. -/
theorem runPageRead_eq (s : State) (id : Byte) : runPageRead s [id] =
    if 7 < id.toNat then s.refuse .badArg
    else
      match StoredPage.ofId id.toNat with
      | none => s.accept (id :: 1 :: s.identity.chars)
      | some pg =>
        if s.inFlightOn pg then s.refuse .busy
        else
          match pg with
          | .defaults => s.readPage id s.defaultsPage Defaults.chars
          | .profile i => s.readPage id (s.profilePage i) Profile.image := rfl

theorem StoredPage.ofId_none {n : Nat} (h : n ≤ 7) (hn : StoredPage.ofId n = none) : n = 0 := by
  interval_cases n
  · rfl
  all_goals cases hn

theorem State.inFlightOn_iff (s : State) (pg : StoredPage) :
    s.inFlightOn pg = true ↔ s.pageOp.map (·.job.page) = some pg := by
  unfold State.inFlightOn
  cases s.pageOp <;> simp

/-- LOT_READ answers the fields of its entry, or why it cannot (R137). -/
theorem takeLotRead {s : State} {n : Byte} {rest : List Frame} (hf : s.HostFinds 0x58 [n] rest) :
    s.takeHost 0x58 runLotRead =
      match lotIds.find? (fun l => l.val = n.toNat) with
      | none => s.answered rest 0x58 [2]
      | some l =>
        match tabGet s.lots l with
        | none => s.answered rest 0x58 [8]
        | some e => s.answered rest 0x58 (0 :: n :: e.lotText ++ write3 e.opened ++ write3 e.closed ++
            write3 e.abandoned ++ [BitVec.ofNat 8 (s.boundMembers l)] ++ write3 e.tested ++ write3 e.pass ++
            [if e.lowReported = true then 1 else 0] ++ (tabList e.bins).tail.flatMap write3) := by
  rw [State.takeHost_finds hf, runLotRead_eq, lotOf_eq]
  cases hl : lotIds.find? (fun l => l.val = n.toNat) with
  | none => rfl
  | some l =>
    dsimp only [State.popHost_lots]
    cases tabGet s.lots l with
    | none => rfl
    | some e =>
      have index : BitVec.ofNat 8 l.val = n := by
        have hn : l.val = n.toNat := by simpa using List.find?_some hl
        rw [hn, BitVec.ofNat_toNat, BitVec.setWidth_eq]
      dsimp only
      rw [Lot.chars, index]
      simp only [List.cons_append, List.append_assoc]
      rfl

/-- PAGE_READ answers a page by its state, or why it cannot (R178, R181). -/
theorem takePageRead {s : State} {id : Byte} {rest : List Frame} (hf : s.HostFinds 0x5C [id] rest) :
    s.takeHost 0x5C runPageRead =
      if 7 < id.toNat then s.answered rest 0x5C [2]
      else
        match StoredPage.ofId id.toNat with
        | none => s.answered rest 0x5C ([0, 0, 1] ++ s.identity.chars)
        | some pg =>
          if s.pageOp.map (·.job.page) = some pg then s.answered rest 0x5C [1]
          else
            let chars : Option (List Byte) :=
              match pg with
              | .defaults =>
                match s.defaultsPage with | .valid d => some (1 :: d.chars) | .blank => some [2] | .damaged => none
              | .profile i =>
                match s.profilePage i with | .valid prof => some (1 :: prof.image) | .blank => some [2] | .damaged => none
            match chars with
            | none => s.answered rest 0x5C [13]
            | some cs => s.answered rest 0x5C (0 :: id :: cs) := by
  rw [State.takeHost_finds hf, runPageRead_eq]
  split
  · rfl
  · next hle =>
    cases hid : StoredPage.ofId id.toNat with
    | none =>
      have zero : id = 0 := BitVec.eq_of_toNat_eq (StoredPage.ofId_none (by omega) hid)
      rw [zero]
      rfl
    | some pg =>
      have busy := s.inFlightOn_iff pg
      have same : (s.popHost rest).inFlightOn pg = s.inFlightOn pg := rfl
      dsimp only
      rw [same]
      by_cases hb : s.inFlightOn pg = true
      · rw [if_pos hb, if_pos (busy.mp hb)]
        rfl
      · rw [if_neg hb, if_neg fun h => hb (busy.mpr h)]
        cases pg with
        | defaults =>
          have page : (s.popHost rest).defaultsPage = s.defaultsPage := rfl
          dsimp only
          rw [page]
          cases s.defaultsPage <;> rfl
        | profile i =>
          have page : (s.popHost rest).profilePage i = s.profilePage i := rfl
          dsimp only
          rw [page]
          cases s.profilePage i <;> rfl

/-- Settles O50: by what each read answers, and the characters of each table. -/
theorem tableReadsAnswerTheTables : Obligations.TableReadsAnswerTheTables := by
  refine ⟨State.boundMembers_eq,
    refusesLength_of (fun _ _ => rfl) fun _ _ hl => if_pos (wrongLength_bare (by decide) hl),
    refusesLength_of (fun _ _ => rfl) fun _ _ hl => if_pos (wrongLength_bare (by decide) hl),
    refusesLength_of (fun _ _ => rfl) fun _ _ hl => if_pos (wrongLength_read (by decide) hl),
    refusesLength_of (fun _ _ => rfl) fun _ _ hl => if_pos (wrongLength_read (by decide) hl),
    fun s rest hf => ?_, fun s rest hf => ?_, fun s n rest hf => congrArg Host.Outcome.next (takeLotRead hf),
    Identity.chars_eq, Defaults.chars_eq, fun prof => rfl,
    fun s id rest hf => congrArg Host.Outcome.next (takePageRead hf)⟩
  · have answer := State.takeHost_answer hf (runBinsRead_nil _)
    rw [binChars_eq] at answer
    exact congrArg Host.Outcome.next answer
  · have answer := State.takeHost_answer hf (runQueryPart_nil _)
    rw [Identity.chars_eq] at answer
    exact congrArg Host.Outcome.next answer

end Sys2Proof.Machine
end

section
/-! PROOFS. The resets, and the lamps while only IDLE is active (O45, O44). -/
namespace Sys2Proof.Machine

/-! ### Lamps while only IDLE is active (R126 to R128, R130) -/

theorem LampState.start_eq (x : Option Pattern) : LampState.start x = ⟨x, x.isSome, (x.map Pattern.halfMs).getD 0⟩ := by
  cases x <;> rfl

theorem State.settleLamps_get (s : State) (l : Lamp) :
    s.settleLamps.lamps.get l = (s.lamps.get l).show (s.lampPattern l) := by
  cases l <;> rfl

theorem tabList_any_false {α : Type} {n : Nat} {v : Vector α n} {f : α → Bool} (h : ∀ i, f (tabGet v i) = false) :
    (tabList v).any f = false := by
  rw [Bool.eq_false_iff]
  intro ht
  obtain ⟨i, hi⟩ := (tabList_any _ _).mp ht
  rw [h i] at hi
  cases hi

theorem State.someWafer_none {s : State} (h : ∀ i, s.waferAt i = none) (f : Wafer → Bool) : s.someWafer f = false :=
  tabList_any_false fun i => by rw [show (tabGet s.slots i).wafer = none from h i]; rfl

/-- With no wafer, no port HELD and no head lost, IDLE is the one active condition (Table 6-4). -/
theorem State.conditions_idle {s : State} (hw : ∀ i, s.waferAt i = none) (hh : ∀ p, (s.port p).held = false)
    (hl : ∀ p c, (s.port p).session ≠ .lost c) : s.conditions =
      [(false, s.lampTable.hold), (false, s.lampTable.warn), (false, s.lampTable.lost), (false, s.lampTable.probing),
        (true, s.lampTable.idle)] := by
  have held : (tabList s.ports).any (·.held) = false := tabList_any_false hh
  have lost : (tabList s.ports).any (fun q => match q.session with | .lost _ => true | _ => false) = false :=
    tabList_any_false fun p => by
      split
      · next c hc => exact absurd hc (hl p c)
      · rfl
  unfold State.conditions
  rw [held, State.someWafer_none hw, State.someWafer_none hw, State.someWafer_none hw]
  exact congrArg (fun b => [(false, s.lampTable.hold), (false, s.lampTable.warn), (b, s.lampTable.lost),
    (false, s.lampTable.probing), (true, s.lampTable.idle)]) lost

/-- Then a lamp shows IDLE's pattern where IDLE is assigned to it, and is dark elsewhere (R127). -/
theorem State.lampPattern_idle {s : State} (hw : ∀ i, s.waferAt i = none) (hh : ∀ p, (s.port p).held = false)
    (hl : ∀ p c, (s.port p).session ≠ .lost c) (l : Lamp) :
    s.lampPattern l = if s.lampTable.idle.lamp = lampChoice l then some s.lampTable.idle.pattern else none := by
  unfold State.lampPattern
  rw [State.conditions_idle hw hh hl]
  by_cases h : s.lampTable.idle.lamp = lampChoice l <;> simp [h]

/-! ### PART_RESET (R174) -/

theorem State.slot_softReset (s : State) (i : SlotId) :
    tabGet s.softReset.slots i = ⟨(tabGet s.slots i).generation, none⟩ :=
  tabGet_tabMap _ _ _

theorem State.port_softReset (s : State) (p : PortId) : s.softReset.port p = (s.port p).softReset := tabGet_tabMap _ _ _

/-- The lamps after a soft reset: only IDLE is active, and a lamp that showed its pattern runs on (R128, R174). -/
theorem State.softReset_get (s : State) (l : Lamp) : s.softReset.lamps.get l =
    (s.lamps.get l).show (if s.lampTable.idle.lamp = lampChoice l then some s.lampTable.idle.pattern else none) := by
  have free : ∀ i, s.softReset.waferAt i = none := fun i => by rw [State.waferAt, State.slot_softReset]
  have held : ∀ p, (s.softReset.port p).held = false := fun p => by rw [State.port_softReset]; rfl
  have lost : ∀ p c, (s.softReset.port p).session ≠ .lost c := fun p c => by
    rw [State.port_softReset]
    unfold Port.softReset
    dsimp only
    split <;> exact nofun
  exact (State.settleLamps_get _ l).trans (congrArg _ (State.lampPattern_idle (s := s.softReset) free held lost l))

/-- Settles O45: field by field, with only IDLE active in the lamps afterwards. -/
theorem partResetKeepsTheSettings : Obligations.PartResetKeepsTheSettings := by
  intro s rest hf
  refine ⟨s.softReset, congrArg Host.Outcome.next (State.takeHost_finds hf _), s.slot_softReset, tabGet_replicate _,
    s.port_softReset, rfl, rfl, fun l => ?_, rfl⟩
  rw [State.softReset_get, LampState.show, LampState.start_eq]

/-! ### Power-up and pin reset (R182) -/

/-- An operation in flight is cut short: its page is left without determined bytes (R181). -/
theorem State.cutShort_eq (s : State) : s.cutShort = { (match s.pageOp with
    | none => s
    | some ⟨.erase pg, _⟩ => s.setPage pg PageBytes.lost
    | some ⟨.program pg _, _⟩ => s.setPage pg PageBytes.lost) with pageOp := none } := by
  have none_left : s.pageOp = none → s = { s with pageOp := none } := fun h => by rw [← h]
  unfold State.cutShort
  rcases h : s.pageOp with _ | ⟨_ | _, _⟩
  · exact none_left h
  · rfl
  · rfl

theorem State.cutShort_identity (s : State) : s.cutShort.identity = s.identity := by
  unfold State.cutShort
  split
  · rfl
  · exact s.setPage_identity _ _

theorem Port.start_eq (l : LineSettings) : Port.start l = { Port.reset with
    settings := l
    session := if l.divisor = 0 then .disabled else .down
    rdyOut := decide (l.divisor ≠ 0) } := by
  unfold Port.start
  by_cases h : l.divisor = 0 <;> simp [h, Port.reset]

/-- The settings a reset loads: those of a VALID page 1, or the factory settings (R182). -/
theorem loadedDefaults_eq (pg : Page Defaults) : loadedDefaults pg = match pg with
    | .valid d => d
    | _ => ⟨factoryBins, factoryLampTable, Vector.replicate 4 factoryLine, true, factoryProfile⟩ := by
  cases pg <;> rfl

theorem State.slot_restart (s : State) (st : Straps) (i : SlotId) : tabGet (s.restart st).slots i = ⟨0, none⟩ :=
  tabGet_replicate _ _

theorem State.port_restart (s : State) (st : Straps) (p : PortId) :
    (s.restart st).port p = Port.start (tabGet (loadedDefaults s.cutShort.defaultsPage).lines p) := tabGet_tabMap _ _ _

/-- The lamps after a reset: each begins afresh with what IDLE, the one active condition, gives it (R130). -/
theorem State.restart_get (s : State) (st : Straps) (l : Lamp) : (s.restart st).lamps.get l =
    LampState.start (if (s.restart st).lampTable.idle.lamp = lampChoice l then some (s.restart st).lampTable.idle.pattern
      else none) := by
  have free : ∀ i, (s.restart st).waferAt i = none := fun i => by rw [State.waferAt, State.slot_restart]
  have held : ∀ p, ((s.restart st).port p).held = false := fun p => by rw [State.port_restart, Port.start_eq]; rfl
  have lost : ∀ p c, ((s.restart st).port p).session ≠ .lost c := fun p c => by
    rw [State.port_restart, Port.start_eq]
    dsimp only
    split <;> exact nofun
  have dark : ∀ x, (Lamps.dark.get l).show x = LampState.start x := fun x => by
    have : Lamps.dark.get l = LampState.start none := by cases l <;> rfl
    rw [this, LampState.show]
    split
    · next h => rw [← h]; rfl
    · rfl
  rw [← State.lampPattern_idle free held lost l, ← dark]
  exact State.settleLamps_get _ l

/-- Settles O44: field by field, with the settings loaded from page 1 as the reset leaves it. -/
theorem resetsLoadPage1 : Obligations.ResetsLoadPage1 := by
  refine ⟨fun _ _ => rfl, fun s st => ⟨s.restart st, rfl, ?_⟩⟩
  intro cut d
  have hc : s.cutShort = { cut with pageOp := none } := s.cutShort_eq
  have hd : loadedDefaults s.cutShort.defaultsPage = d := by rw [loadedDefaults_eq, hc]; rfl
  have page1 : s.cutShort.page1 = cut.page1 := by rw [hc]
  have profiles : s.cutShort.profilePages = cut.profilePages := by rw [hc]
  refine ⟨rfl, congrArg Defaults.bins hd, s.slot_restart st, tabGet_replicate _, fun p => ?_,
    congrArg Defaults.lampTable hd,
    fun l => ?_, ?_, rfl, rfl, congrArg Defaults.alertEnable hd, congrArg Defaults.profile hd, s.cutShort_identity,
    page1, profiles, rfl, s.cutShort_pending⟩
  · rw [State.port_restart, hd, Port.start_eq]
  · have table : (s.restart st).lampTable = d.lampTable := congrArg Defaults.lampTable hd
    rw [State.restart_get, table, LampState.start_eq]
    split <;> rfl
  · obtain ⟨a, b⟩ := st
    cases a <;> cases b <;> rfl

end Sys2Proof.Machine
end

section
/-! PROOFS. WAFER_OPEN: its arguments, its checks in their order, and the opening (O53). -/
namespace Sys2Proof.Machine

/-! ### The arguments of a WAFER_OPEN (R20, Table 2-2) -/

theorem portOf_lt {n : Nat} {p : PortId} (h : portOf n = some p) : n < 4 := by
  unfold portOf at h
  split at h
  · assumption
  · cases h

theorem portOf_val (p : PortId) : portOf p.val = some p := dif_pos p.isLt

theorem Policy.ofCode_le {n : Nat} {pol : Policy} (h : Policy.ofCode n = some pol) : n ≤ 2 := by
  by_contra hn
  obtain ⟨m, rfl⟩ := Nat.exists_eq_add_of_le' (Nat.lt_of_not_le hn)
  cases h

theorem Policy.ofCode_code (pol : Policy) : Policy.ofCode pol.code.toNat = some pol := by cases pol <;> rfl

theorem profilePageOk_iff (n : Nat) : profilePageOk n = true ↔ 2 ≤ n ∧ n ≤ 7 ∨ n = 255 := by simp [profilePageOk]

/-- Arguments are read only where every one is in range (R20). -/
theorem readOpen_some {bs : List Byte} {a : OpenArgs} (h : readOpen bs = some a) :
    read1 bs 0 < 4 ∧ read1 bs 18 ≤ 2 ∧ read1 bs 13 ≠ 0 ∧ gridOk (read2 bs 14) (read2 bs 16) = true ∧
      profilePageOk (read1 bs 19) = true := by
  unfold readOpen at h
  split at h
  · next hp hpol =>
    split at h
    · next hc =>
      obtain ⟨hn, hg, hpage⟩ := hc
      exact ⟨portOf_lt hp, Policy.ofCode_le hpol, fun h0 => hn (BitVec.eq_of_toNat_eq h0), hg, hpage⟩
    · cases h
  · cases h

/-- The characters of the arguments after the lot id. -/
def OpenArgs.tail (a : OpenArgs) : List Byte :=
  a.number :: (write2 a.rows ++ write2 a.columns ++ [a.policy.code, BitVec.ofNat 8 a.page])

theorem openPayload_eq (a : OpenArgs) : openPayload a = (BitVec.ofNat 8 a.port.val :: a.lotText) ++ a.tail := by
  simp [openPayload, OpenArgs.tail]

/-- Arguments in range read back from their payload (R20). -/
theorem readOpen_openPayload {a : OpenArgs} (h : openArgsOk a) : readOpen (openPayload a) = some a := by
  obtain ⟨hlot, hn, hr1, hr, hc1, hc, hd, hpage⟩ := h
  have after : ∀ i, charAt (openPayload a) (13 + i) = charAt a.tail i := fun i => by
    have := charAt_append_right (BitVec.ofNat 8 a.port.val :: a.lotText) a.tail i
    rwa [List.length_cons, hlot, ← openPayload_eq] at this
  have port : read1 (openPayload a) 0 = a.port.val := by
    show (BitVec.ofNat 8 a.port.val).toNat = _
    exact oneChar (by omega)
  have number : charAt (openPayload a) 13 = a.number := after 0
  have rows : read2 (openPayload a) 14 = a.rows := by
    rw [read2, read1, read1, after 1, after 2]
    exact twoChars (by omega)
  have columns : read2 (openPayload a) 16 = a.columns := by
    rw [read2, read1, read1, after 3, after 4]
    exact twoChars (by omega)
  have policy : read1 (openPayload a) 18 = a.policy.code.toNat := by rw [read1, after 5]; rfl
  have page : read1 (openPayload a) 19 = a.page := by
    rw [read1, after 6]
    exact oneChar (by omega)
  have lot : ((openPayload a).drop 1).take 12 = a.lotText := by
    rw [openPayload_eq]
    exact List.take_left' hlot
  have grid : gridOk a.rows a.columns = true := (gridOk_iff _ _).mpr ⟨hr1, hr, hc1, hc, hd⟩
  unfold readOpen
  rw [port, policy, portOf_val, Policy.ofCode_code]
  dsimp only
  rw [number, rows, columns, page, lot, if_pos ⟨hn, grid, (profilePageOk_iff _).mpr hpage⟩]

theorem openPayload_length {a : OpenArgs} (h : openArgsOk a) : (openPayload a).length = 20 := by
  simp [openPayload_eq, OpenArgs.tail, write2, h.1]

theorem runWaferOpen_openPayload {a : OpenArgs} (h : openArgsOk a) (s : State) :
    runWaferOpen s (openPayload a) = s.judgeOpen a := by
  unfold runWaferOpen
  rw [if_neg (not_not_intro (openPayload_length h)), readOpen_openPayload h]

/-! ### The checks of a WAFER_OPEN (R21) -/

theorem State.portBusy_none_iff (s : State) (p : PortId) : s.portBusy p none = true ↔
    ∃ i, (s.waferAt i).any (fun w => (w.state == .active || w.state == .suspended) && w.boundPort == some p) = true := by
  simp [State.portBusy, mem_slotIds]

theorem State.dupWafer_iff (s : State) (lot : List Byte) (n : Byte) : s.dupWafer lot n = true ↔
    ∃ i, (s.waferAt i).any (fun w => w.lotText == lot && w.number == n) = true := tabList_any _ _

theorem State.freeSlot_eq (s : State) : s.freeSlot = slotIds.find? fun i => s.waferAt i = none := by
  have same : (fun i => (s.waferAt i).isNone) = fun i => decide (s.waferAt i = none) := by
    funext i
    cases s.waferAt i <;> rfl
  rw [State.freeSlot, same]

/-- The profile a page argument names, with the code of the status that refuses it (R21 check 5). -/
theorem State.profileOf_eq (s : State) (n : Nat) : (s.profileOf n).mapError Status.code =
    match StoredPage.ofId n with
    | some (.profile j) =>
      if s.pageOp.map (·.job.page) = some (.profile j) then .error 1
      else match s.profilePage j with | .valid prof => .ok prof | _ => .error 13
    | _ => .ok s.defaultProfile := by
  unfold State.profileOf
  cases StoredPage.ofId n with
  | none => rfl
  | some pg =>
    cases pg with
    | defaults => rfl
    | profile j =>
      have busy := s.inFlightOn_iff (.profile j)
      dsimp only
      by_cases hb : s.inFlightOn (.profile j) = true
      · rw [if_pos hb, if_pos (busy.mp hb)]
        rfl
      · rw [if_neg hb, if_neg fun h => hb (busy.mpr h)]
        cases s.profilePage j <;> rfl

theorem placeBlock_eq (blocks : List (Nat × Nat)) (size : Nat) : placeBlock blocks size =
    ((List.range (storeCells / size)).find? fun k => spanFree blocks (k * size) size).map (· * size) := by
  rw [placeBlock, List.find?_map]
  rfl

/-! ### The opening (R22, R23) -/

theorem State.handleOf_fillSlot (s : State) (i : SlotId) (w : Wafer) :
    (s.fillSlot i w).handleOf i = mkHandle i ((tabGet s.slots i).generation + 1) := by
  unfold State.handleOf State.fillSlot
  rw [tabGet_tabModify, if_pos rfl]

/-- The effects of an opening, with its handle written out. -/
theorem State.openWafer_eq (s : State) (a : OpenArgs) (i : SlotId) (prof : Profile) (l : LotId) (base : Nat) :
    s.openWafer a i prof l base =
      let h := mkHandle i ((tabGet s.slots i).generation + 1)
      let w := newWafer a l base (s.port a.port).serial prof
      ((((({ s with map := mapClear base w.size s.map }.joinLot l a.lotText).fillSlot i w).queueOut a.port
        (w.assignFrame h)).judgeHeld a.port h none).settleLamps) := by
  unfold State.openWafer
  dsimp only
  rw [State.handleOf_fillSlot]
  rfl

/-- Settles O53: check by check in their order, and then the opening. -/
theorem waferOpensAreJudgedInOrder : Obligations.WaferOpensAreJudgedInOrder := by
  refine ⟨fun s bs rest hf hlen hbad => ?_, fun s a rest ok hf => congrArg Host.Outcome.next ?_⟩
  · have none_read : readOpen bs = none := by
      refine Option.eq_none_iff_forall_ne_some.mpr fun a ha => ?_
      obtain ⟨hp, hpol, hn, hg, hpage⟩ := readOpen_some ha
      rw [gridOk_iff] at hg
      rw [profilePageOk_iff] at hpage
      omega
    refine congrArg Host.Outcome.next (State.takeHost_answer hf ?_)
    unfold runWaferOpen
    rw [if_neg (not_not_intro hlen), none_read]
    rfl
  · extract_lets refuse busy dup size profile
    have hprofile : profile = (s.profileOf a.page).mapError Status.code := (s.profileOf_eq a.page).symm
    have hbusy : (s.popHost rest).portBusy a.port none = true ↔ busy := s.portBusy_none_iff a.port
    have hdup : (s.popHost rest).dupWafer a.lotText a.number = true ↔ dup := s.dupWafer_iff a.lotText a.number
    have hfree : (s.popHost rest).freeSlot = slotIds.find? fun i => s.waferAt i = none := s.freeSlot_eq
    have hprof : (s.popHost rest).profileOf a.page = s.profileOf a.page := rfl
    have hlot : (s.popHost rest).lotFor a.lotText = s.lotFor a.lotText := rfl
    have hplace : placeBlock (s.popHost rest).blocks (blockSizeFor (a.rows * a.columns)) =
      ((List.range (1048576 / size)).find? fun k => spanFree s.blocks (k * size) size).map (· * size) := placeBlock_eq _ _
    rw [State.takeHost_finds hf, runWaferOpen_openPayload ok, hprofile]
    unfold State.judgeOpen
    rw [State.port_popHost, hfree, hprof, hlot, hplace]
    by_cases up : (s.port a.port).session ≠ .up
    · rw [if_pos up, if_pos up]
      rfl
    rw [if_neg up, if_neg up]
    by_cases hb : busy
    · rw [if_pos hb, if_pos (hbusy.mpr hb)]
      rfl
    rw [if_neg hb, if_neg fun h => hb (hbusy.mp h)]
    by_cases hd : dup
    · rw [if_pos hd, if_pos (hdup.mpr hd)]
      rfl
    rw [if_neg hd, if_neg fun h => hd (hdup.mp h)]
    cases slotIds.find? fun i => s.waferAt i = none with
    | none => rfl
    | some i =>
      cases s.profileOf a.page with
      | error st => rfl
      | ok prof =>
        cases s.lotFor a.lotText with
        | none => rfl
        | some l =>
          cases (List.range (1048576 / size)).find? fun k => spanFree s.blocks (k * size) size with
          | none => rfl
          | some k =>
            dsimp only [Option.map_some, Except.mapError]
            rw [State.openWafer_eq]
            rfl

end Sys2Proof.Machine
end

section
/-! PROOFS. Malformed head frames, UNLOAD, and the order in which a wafer ends (O25, O37, O38). -/
namespace Sys2Proof.Machine

/-! ### Malformed head frames (R24, R45, R53, R54, R152) -/

theorem touchLengthOk_false_iff (bs : List Byte) :
    touchLengthOk bs = false ↔ bs.length < 3 ∨ bs.length ≠ 3 + 5 * read1 bs 2 := by
  simp only [touchLengthOk, Bool.and_eq_false_iff, decide_eq_false_iff_not, beq_eq_false_iff_ne, Nat.not_le]

theorem announceOk_iff (bs : List Byte) :
    announceOk bs = true ↔ (bs.length = 5 ∨ bs.length = 6) ∧ 1 ≤ read1 bs 4 ∧ read1 bs 4 ≤ 16 := by
  simp [announceOk]

/-- The ANNOUNCE at the front is taken and judged on its frame (R152). -/
theorem State.takeAnnounce_finds {s : State} {p : PortId} {bs : List Byte} {rest : List Frame}
    (h : s.HeadFinds p 0x11 bs rest) :
    s.takeAnnounce p = (s.withPort p fun q => q.takeFrame kindAnnounce rest).announce p bs := by
  unfold State.takeAnnounce
  rw [State.ready_finds h]
  exact if_pos rfl

/-- Settles O25: each owner checks the length, and ANNOUNCE its maximum too, before anything else. -/
theorem malformedHeadFramesAreRefused : Obligations.MalformedHeadFramesAreRefused := by
  refine fun s p bs rest => ⟨fun hf up hl => congrArg Host.Outcome.next ?_, fun hf up hc hl => ?_,
    fun hf up hl => congrArg Host.Outcome.next ?_, fun hf hbad => congrArg Host.Outcome.next ?_⟩
  · rw [show s.takeHead p kindTouch (State.touch p) = _ from State.takeHead_up hf up _]
    exact if_pos ((touchLengthOk_false_iff bs).mpr hl)
  · refine (State.guardCells_true hc _).trans (congrArg _ ?_)
    rw [show s.takeHead p kindLift (State.lift p) = _ from State.takeHead_up hf up _]
    exact if_pos hl
  · rw [show s.takeHead p kindUnload (State.unload p) = _ from State.takeHead_up hf up _]
    exact if_pos hl
  · rw [State.takeAnnounce_finds hf]
    refine if_pos (Bool.eq_false_iff.mpr fun hok => ?_)
    obtain ⟨hlen, hlow, hhigh⟩ := (announceOk_iff bs).mp hok
    have : read1 bs 4 = (bs.getD 4 0).toNat := rfl
    omega

/-! ### UNLOAD (R24, R25, R65) -/

/-- The binding of a wafer: its state and its bound port (Table 2-1). -/
def Wafer.binding (w : Wafer) : WaferState × Option PortId := (w.state, w.boundPort)

theorem Wafer.binding_eq_iff (w : Wafer) (st : WaferState) (p : Option PortId) :
    w.binding = (st, p) ↔ w.state = st ∧ w.boundPort = p := by
  simp [Wafer.binding]

/-- The wafer a handle names is ACTIVE on the port. -/
theorem State.activeOn_eq {s : State} {p : PortId} {h : Byte} {i : SlotId} (hr : s.resolve h = some i) :
    s.activeOn p h = if (s.waferAt i).map Wafer.binding = some (.active, some p) then s.waferAt i else none := by
  unfold State.activeOn
  rw [hr, Option.bind_some]
  cases s.waferAt i with
  | none => simp
  | some w => simp [Wafer.binding]

theorem State.otherDraining_iff (s : State) (p : PortId) (i : SlotId) : s.otherDraining p i = true ↔
    ∃ j, j ≠ i ∧ (s.waferAt j).map Wafer.binding = some (.draining, some p) := by
  unfold State.otherDraining
  simp only [List.any_eq_true, mem_slotIds, true_and, Bool.and_eq_true, bne_iff_ne, ne_eq]
  refine exists_congr fun j => and_congr_right fun _ => ?_
  cases s.waferAt j <;> simp [Wafer.binding]

/-- An UNLOAD of one character is judged in the order of R24. -/
theorem State.unload_eq (s : State) (p : PortId) (h : Byte) : s.unload p [h] =
    match s.resolve h with
    | none => s.refuseFrame p kindUnload .badWafer h 0
    | some i =>
      if (s.waferAt i).map Wafer.binding ≠ some (.active, some p) then s.refuseFrame p kindUnload .badWafer h 0
      else if (s.port p).touchdowns.any (fun e => e.handle == h) then
        if s.otherDraining p i then s.refuseFrame p kindUnload .stillDraining h 0
        else (s.withWafer i fun w => { w with state := .draining }).settleLamps
      else s.enterClosed i .unloaded := by
  show State.unload p s [h] = _
  unfold State.unload
  dsimp only
  rw [if_neg (by simp), show charAt [h] 0 = h from rfl]
  cases hr : s.resolve h with
  | none => rfl
  | some i =>
    obtain ⟨w, hw⟩ := State.waferAt_resolve hr
    rw [State.activeOn_eq hr]
    dsimp only
    by_cases hb : (s.waferAt i).map Wafer.binding = some (.active, some p)
    · rw [if_pos hb, if_neg (not_not_intro hb), hw]
    · rw [if_neg hb, if_pos hb]

/-- Settles O37: check by check in the order of R24. -/
theorem unloadsCloseOrDrain : Obligations.UnloadsCloseOrDrain := by
  refine fun s p h rest hf up => congrArg Host.Outcome.next ?_
  rw [show s.takeHead p kindUnload (State.unload p) = _ from State.takeHead_up hf up _]
  extract_lets taken refuse
  have listed : (taken.port p).touchdowns = (s.port p).touchdowns := by
    rw [State.port_withPort_self, Port.takeFrame_touchdowns]
  have none_names : (∀ e ∈ (s.port p).touchdowns, e.handle ≠ h) ↔
      ¬ (s.port p).touchdowns.any (fun e => e.handle == h) = true := by simp
  refine (taken.unload_eq p h).trans ?_
  rw [show taken.resolve h = s.resolve h from rfl, listed]
  cases s.resolve h with
  | none => rfl
  | some i =>
    dsimp only
    by_cases hb : (s.waferAt i).map Wafer.binding ≠ some (.active, some p)
    · exact (if_pos hb).trans (if_pos hb).symm
    refine (if_neg hb).trans (Eq.trans ?_ (if_neg hb).symm)
    by_cases he : (s.port p).touchdowns.any (fun e => e.handle == h) = true
    · rw [if_pos he, if_neg fun hn => none_names.mp hn he]
      by_cases hd : taken.otherDraining p i = true
      · rw [if_pos hd]
        exact (if_pos ((taken.otherDraining_iff p i).mp hd)).symm
      · rw [if_neg hd]
        exact (if_neg fun hd' => hd ((taken.otherDraining_iff p i).mpr hd')).symm
    · rw [if_neg he, if_pos (none_names.mpr he)]

/-! ### A wafer enters CLOSED or ABANDONED (R26, R34) -/

theorem Lot.judged_iff (l : Lot) (floor : Nat) : l.judged floor = true ↔ floor ≠ 0 ∧ l.tested ≠ 0 := by
  simp [Lot.judged]

/-- The roll-up of a wafer into its lot entry, with the entry's new fields written out (R133, R134). -/
theorem State.rollUp_eq {s : State} {w : Wafer} {l : LotId} {e : Lot} (hl : w.lotEntry = some l)
    (he : tabGet s.lots l = some e) (p : Option PortId) (h : Byte) :
    s.rollUp w p h =
      let e' := e.rollUp w
      let judged := w.active.lotFloor ≠ 0 ∧ e'.tested ≠ 0
      let low := perMille e'.pass e'.tested < w.active.lotFloor
      let t := { s with lots := tabSet s.lots l (some { e' with
        lowReported := if judged then decide low else e.lowReported }) }
      if judged ∧ low ∧ e.lowReported = false then t.notify (.lotLow p h l) else t := by
  have judged := (e.rollUp w).judged_iff w.active.lotFloor
  unfold State.rollUp
  rw [hl]
  dsimp only
  rw [he]
  dsimp only
  by_cases hj : w.active.lotFloor ≠ 0 ∧ (e.rollUp w).tested ≠ 0
  · rw [if_neg (by rw [judged.mpr hj]; exact Bool.noConfusion), if_pos hj]
    by_cases hlow : perMille (e.rollUp w).pass (e.rollUp w).tested < w.active.lotFloor ∧ e.lowReported = false
    · rw [if_pos (by simp [Lot.isLow, hlow.1, hlow.2]), if_pos ⟨hj, hlow⟩]
      rfl
    · rw [if_neg fun hc => hlow (by simpa [Lot.isLow] using hc), if_neg fun hc => hlow hc.2]
      rfl
  · rw [if_pos (Bool.eq_false_iff.mpr fun hc => hj (judged.mp hc)), if_neg hj, if_neg fun hc => hj hc.1]
    rfl

theorem State.countAbandoned_eq {s : State} {w : Wafer} {l : LotId} {e : Lot} (hl : w.lotEntry = some l)
    (he : tabGet s.lots l = some e) :
    s.countAbandoned w = { s with lots := tabSet s.lots l (some { e with abandoned := bump e.abandoned }) } := by
  unfold State.countAbandoned
  rw [hl]
  dsimp only
  rw [tabModify, he]
  rfl

theorem HeadOut.isHoldFrame_iff (f : HeadOut) :
    f.isHoldFrame = true ↔ (∃ h src, f = .hold h src) ∨ ∃ h, f = .proceed h := by
  cases f <;> simp [HeadOut.isHoldFrame]

theorem HeadOut.assigns_iff (f : HeadOut) (h : Byte) :
    f.assigns h = true ↔ ∃ lot n rows columns policy, f = .assign h lot n rows columns policy := by
  cases f <;> simp [HeadOut.assigns]

/-- Settles O38: both orders are the model's, with the roll-up and the count of the lot entry written out. -/
theorem wafersEndInOrder : Obligations.WafersEndInOrder := by
  refine ⟨fun s i w p l e cause hw hp hl he => ?_, fun s i w p l e hw hp hl he => ?_,
    fun f => ⟨f.isHoldFrame_iff, f.assigns_iff⟩, fun _ _ _ => rfl, fun q f => ?_⟩
  · extract_lets h floor tested pass judged low closed rolled
    have lots : closed.lots = s.lots := by rw [State.notify_lots]; rfl
    have rolls := State.rollUp_eq (s := closed) hl ((congrArg (tabGet · l) lots).trans he) (some p) h
    unfold State.enterClosed
    rw [hw]
    dsimp only
    rw [hp]
    exact congrArg (fun u => (u.judgeHeld p h none).settleLamps) rolls
  · extract_lets h t
    unfold State.enterAbandoned
    rw [hw]
    dsimp only
    rw [hp]
    exact congrArg (fun u => (u.judgeHeld p h none).settleLamps) (State.countAbandoned_eq (s := t) hl he)
  · cases f with
    | cancel h =>
      have named : q.any (HeadOut.assigns h) = true ↔ ∃ g ∈ q, g.assigns h = true := List.any_eq_true
      by_cases hn : q.any (HeadOut.assigns h) = true
      · exact (if_pos hn).trans (if_pos (named.mp hn)).symm
      · exact (if_neg hn).trans (if_neg fun hc => hn (named.mpr hc)).symm
    | welcome | assign | touchAck | refuse | hold | proceed => rfl

end Sys2Proof.Machine
end

section
/-! PROOFS. WAFER_CLOSE, WAFER_ABANDON, WAFER_RESUME, WAFER_DISCARD and ANNOUNCE (O55, O56, O39). -/
namespace Sys2Proof.Machine

/-! ### WAFER_CLOSE and WAFER_ABANDON (R32 to R34, R61) -/

/-- The entries of a wafer are voided, and the pass begins where its entry stood at the front (R61). -/
theorem State.voidWafer_eq (s : State) (p : PortId) (i : SlotId) (h : Byte) :
    s.voidWafer p i h =
      let es := (s.port p).touchdowns
      let kept := es.filter fun e => e.handle ≠ h
      let voided := (s.withWafer i fun w => { w with
        touchdownsVoided := satAdd w.touchdownsVoided (es.filter fun e => e.handle = h).length }).setTouchdowns p kept
      if es.head?.map (·.handle) = some h then voided.pass p kept else voided := by
  have others : (fun e : Entry => e.handle != h) = fun e => decide (e.handle ≠ h) := by
    funext e
    rw [decide_not]
    rfl
  have front : ((s.port p).touchdowns.head?.any fun e => e.handle == h) = true ↔
      (s.port p).touchdowns.head?.map (·.handle) = some h := by
    cases (s.port p).touchdowns.head? <;> simp
  unfold State.voidWafer State.runPass
  rw [others]
  dsimp only
  rw [State.setTouchdowns, State.port_withPort_self]
  by_cases hf : (s.port p).touchdowns.head?.map (·.handle) = some h
  · rw [if_pos (front.mpr hf), if_pos hf]
    rfl
  · rw [if_neg fun hc => hf (front.mp hc), if_neg hf]
    rfl

/-- WAFER_CLOSE or WAFER_ABANDON, by how the wafer ends. -/
def runEnding (ended : State → SlotId → State) (s : State) (bs : List Byte) : Answer :=
  if bs.length ≠ 1 then s.refuse .badLength
  else
    s.withHandle (charAt bs 0) fun i w =>
      if w.state.isBound then (ended (s.endTouchdowns i w (charAt bs 0)) i).accept [charAt bs 0]
      else s.refuse .wrongState

/-- How each of the two commands ends its wafer. -/
def endingOf (c : Instr) (s : State) (i : SlotId) : State :=
  if c = .waferClose then s.enterClosed i .forced else s.enterAbandoned i

theorem exec_ending {c : Instr} {k : Byte} (hc : (c, k) ∈ [(Instr.waferClose, (0x49 : Byte)), (.waferAbandon, 0x4A)])
    {s : State} (hs : s.cellsExist = true) : exec c s = .next (s.takeHost k (runEnding (endingOf c))) := by
  simp only [List.mem_cons, List.not_mem_nil, or_false, Prod.mk.injEq] at hc
  rcases hc with ⟨rfl, rfl⟩ | ⟨rfl, rfl⟩
  · exact State.guardCells_true hs _
  · exact State.guardCells_true hs _

/-- Settles O55: through the handle, with the voiding and the handing over written out. -/
theorem hostEndingsVoidCancelAndEnd : Obligations.HostEndingsVoidCancelAndEnd := by
  intro s c k h rest hc hs hf
  rw [exec_ending hc hs]
  refine ⟨fun hr => congrArg _ (State.takeHost_answer hf (State.withHandle_none _ hr)), fun i w hr hw => ?_⟩
  have known : runEnding (endingOf c) (s.popHost rest) [h] = if w.state.isBound then
      (endingOf c ((s.popHost rest).endTouchdowns i w h) i).accept [h] else (s.popHost rest).refuse .wrongState :=
    State.withHandle_some (s := s.popHost rest) _ hr hw
  refine ⟨fun hst => congrArg _ (State.takeHost_answer hf (known.trans (if_neg ?_))), fun p hb hp => ?_,
    fun hb hp => ?_⟩
  · rcases hst with e | e <;> rw [e] <;> exact Bool.noConfusion
  · have touchdowns : (s.popHost rest).endTouchdowns i w h =
        (((s.popHost rest).voidWafer p i h).queueOutIfUp p (.cancel h)) := by
      unfold State.endTouchdowns
      rw [hp]
    have session : (((s.popHost rest).voidWafer p i h).port p).session = (s.port p).session :=
      ((State.WorkFrame.refl (s.popHost rest)).voidWafer p i h).session p
    rw [State.takeHost_finds hf, known, if_pos hb, touchdowns, State.queueOutIfUp, session, State.voidWafer_eq]
    rfl
  · have touchdowns : (s.popHost rest).endTouchdowns i w h = s.popHost rest := by
      unfold State.endTouchdowns
      rw [hp]
    rw [State.takeHost_finds hf, known, if_pos hb, touchdowns]
    rfl

/-! ### WAFER_RESUME and WAFER_DISCARD (R31, R36) -/

theorem portOf_eq_find (n : Nat) : portOf n = portIds.find? fun p => p.val = n := by
  unfold portOf
  split
  · next h =>
    have : ∀ m : Fin 4, some m = portIds.find? fun p => p.val = m.val := by decide
    exact this ⟨n, h⟩
  · next h =>
    refine (List.find?_eq_none.mpr fun p _ => ?_).symm
    have := p.isLt
    simp only [decide_eq_true_eq]
    omega

theorem State.portBusy_some_iff (s : State) (p : PortId) (i : SlotId) : s.portBusy p (some i) = true ↔
    ∃ j, j ≠ i ∧ ((s.waferAt j).any fun v =>
      (v.state == .active || v.state == .suspended) && v.boundPort == some p) = true := by
  simp [State.portBusy, mem_slotIds]

/-- WAFER_RESUME by the characters of its payload, check by check (R31). -/
theorem runWaferResume_eq (s : State) (h b : Byte) : runWaferResume s [h, b] =
    match portIds.find? fun p => p.val = b.toNat with
    | none => s.refuse .badArg
    | some p => s.withHandle h fun i w =>
        if w.state ≠ .suspended then s.refuse .wrongState
        else if (s.port p).session ≠ .up then s.refuse .headDown
        else if s.portBusy p (some i) then s.refuse .headBusy
        else (s.resumeOn i w h p).accept [h] := by
  rw [← portOf_eq_find]
  rfl

/-- Settles O56: the checks of R31 in order, and the one check of R36. -/
theorem resumesRebindAndDiscardsFree : Obligations.ResumesRebindAndDiscardsFree := by
  refine ⟨fun s h => ⟨fun _ => ⟨rfl, fun _ => rfl⟩, rfl, fun _ => rfl⟩, refusesLength_of (fun _ _ => rfl) fun _ _ hl => if_pos hl,
    refusesLength_of (fun _ _ => rfl) fun _ _ hl => if_pos hl,
    fun s h b rest hf => congrArg Host.Outcome.next ?_, fun s h rest hf => congrArg Host.Outcome.next ?_⟩
  · extract_lets refuse
    rw [State.takeHost_finds hf, runWaferResume_eq]
    cases portIds.find? fun p => p.val = b.toNat with
    | none => rfl
    | some p =>
      dsimp only
      cases hr : s.resolve h with
      | none => rw [State.withHandle_none (s := s.popHost rest) _ hr]; rfl
      | some i =>
        obtain ⟨w, hw⟩ := State.waferAt_resolve hr
        rw [State.withHandle_some (s := s.popHost rest) _ hr hw]
        dsimp only
        rw [hw]
        dsimp only
        have busy : (s.popHost rest).portBusy p (some i) = true ↔ _ := s.portBusy_some_iff p i
        by_cases hst : w.state ≠ .suspended
        · rw [if_pos hst, if_pos hst]
          rfl
        rw [if_neg hst, if_neg hst]
        by_cases up : (s.port p).session ≠ .up
        · rw [if_pos up, if_pos (by exact up)]
          rfl
        rw [if_neg up, if_neg (by exact up)]
        by_cases hb : (s.popHost rest).portBusy p (some i) = true
        · rw [if_pos hb, if_pos (busy.mp hb)]
          rfl
        rw [if_neg hb, if_neg fun hc => hb (busy.mpr hc)]
        rfl
  · have run : ∀ u : State, runWaferDiscard u [h] = u.withHandle h fun i w =>
        if w.state.isBound then u.refuse .wrongState else (u.freeSlotAt i).accept [h] := fun _ => rfl
    rw [State.takeHost_finds hf, run]
    cases hr : s.resolve h with
    | none => rw [State.withHandle_none (s := s.popHost rest) _ hr]; rfl
    | some i =>
      obtain ⟨w, hw⟩ := State.waferAt_resolve hr
      rw [State.withHandle_some (s := s.popHost rest) _ hr hw, Option.bind_some, hw]
      dsimp only [Option.map_some]
      by_cases hb : w.state.isBound = true
      · rw [if_pos hb, if_pos hb]
        rfl
      · rw [if_neg hb, if_neg hb]
        rfl

/-! ### ANNOUNCE (R152, R30, R124) -/

theorem Port.takeFrame_session (q : Port) (k : Byte) (rest : List Frame) : (q.takeFrame k rest).session = q.session := by
  unfold Port.takeFrame
  dsimp only
  split <;> rfl

theorem State.resumable_eq_some_iff (s : State) (p : PortId) (serial : Word32) (h : Byte) (i : SlotId) :
    s.resumable p serial h = some i ↔ s.resolve h = some i ∧
      (s.waferAt i).map (fun w => (w.state, w.boundPort, w.serial)) = some (.suspended, some p, serial) := by
  unfold State.resumable
  cases s.resolve h with
  | none => simp
  | some j =>
    dsimp only
    have resumes : ((s.waferAt j).any fun w => w.state == .suspended && w.boundPort == some p && w.serial == serial) =
        true ↔ (s.waferAt j).map (fun w => (w.state, w.boundPort, w.serial)) = some (.suspended, some p, serial) := by
      cases s.waferAt j <;> simp [and_assoc]
    by_cases hj : (s.waferAt j).map (fun w => (w.state, w.boundPort, w.serial)) = some (.suspended, some p, serial)
    · rw [if_pos (resumes.mpr hj)]
      exact ⟨fun e => ⟨e, Option.some.inj e ▸ hj⟩, And.left⟩
    · rw [if_neg fun hc => hj (resumes.mp hc)]
      exact ⟨nofun, fun ⟨e, hi⟩ => absurd hi (Option.some.inj e ▸ hj)⟩

/-- Where at most one slot can satisfy a property, a search of the slots finds that one. -/
theorem find_slot_eq {f : SlotId → Bool} {o : Option SlotId} (h : ∀ i, f i = true ↔ o = some i) :
    slotIds.find? f = o := by
  cases ho : o with
  | none => exact List.find?_eq_none.mpr fun i _ hi => by cases ho ▸ (h i).mp hi
  | some i =>
    cases hf : slotIds.find? f with
    | none => exact absurd ((h i).mpr ho) (List.find?_eq_none.mp hf i (mem_slotIds i))
    | some j => exact ((h j).mp (List.find?_some hf)).symm.trans ho

/-- Steps 4 to 6 of an ANNOUNCE: the notice, WELCOME, and the HOLD frame of a HELD port (R152, R124). -/
def State.greet (s : State) (p : PortId) (periodMs : Nat) (resumed : Option Byte) : State :=
  ((s.notify (.headUp p resumed)).queueOut p (.welcome p periodMs resumed)).queueHoldAfterWelcome p

/-- Steps 2 to 6 of an ANNOUNCE by whether it resumes a wafer. -/
theorem State.announceUp_eq (s : State) (p : PortId) (serial : Word32) (maxSites : Nat) (resume : Option Byte) :
    s.announceUp p serial maxSites resume =
      let up := s.withPort p fun q => q.startSession serial maxSites
      match resume.bind (up.resumable p serial) with
      | some i => ((up.resumeAt p i).greet p (up.port p).settings.periodMs resume).settleLamps
      | none => (up.greet p (up.port p).settings.periodMs none).settleLamps := by
  unfold State.announceUp
  dsimp only
  generalize s.withPort p (fun q => q.startSession serial maxSites) = up
  cases resume.bind (up.resumable p serial) with
  | none => rfl
  | some i =>
    have settings : ((up.resumeAt p i).port p).settings = (up.port p).settings :=
      (((State.WorkFrame.refl up).withWafer i _).judgeHeld p _ _).settings p
    dsimp only
    rw [settings]
    rfl

/-- An ANNOUNCE payload that passes, read by its characters (R152). -/
theorem State.announce_eq (s : State) (p : PortId) (a b c d n : Byte) (resume : Option Byte) (h1 : 1 ≤ n.toNat)
    (h16 : n.toNat ≤ 16) : s.announce p ([a, b, c, d, n] ++ resume.toList) =
      (if (s.port p).session = .up then s.lose p .restart else s).announceUp p
        (BitVec.ofNat 32 (((a.toNat * 256 + b.toNat) * 256 + c.toNat) * 256 + d.toNat)) n.toNat resume := by
  have ok : announceOk ([a, b, c, d, n] ++ resume.toList) = true := by
    refine (announceOk_iff _).mpr ⟨?_, h1, h16⟩
    cases resume
    · exact .inl rfl
    · exact .inr rfl
  have serial : read4 ([a, b, c, d, n] ++ resume.toList) 0 =
      ((a.toNat * 256 + b.toNat) * 256 + c.toNat) * 256 + d.toNat := by
    show 256 * (256 * (256 * a.toNat + b.toNat) + c.toNat) + d.toNat = _
    omega
  have handle : (if ([a, b, c, d, n] ++ resume.toList).length = 6 then
      some (charAt ([a, b, c, d, n] ++ resume.toList) 5) else none) = resume := by
    cases resume <;> rfl
  show State.announce p s _ = _
  unfold State.announce
  rw [if_neg (by rw [ok]; exact Bool.noConfusion), serial, handle]
  rfl

/-- Settles O39: the steps of R152 in order, with the wafer it resumes found by its slot. -/
theorem announcesOpenASession : Obligations.AnnouncesOpenASession := by
  refine fun s p a b c d n resume rest hf h1 h16 => congrArg Host.Outcome.next ?_
  rw [State.takeAnnounce_finds hf, State.announce_eq _ _ _ _ _ _ _ _ h1 h16, State.announceUp_eq]
  have session : ((s.withPort p fun q => q.takeFrame kindAnnounce rest).port p).session = (s.port p).session := by
    rw [State.port_withPort_self, Port.takeFrame_session]
  rw [session]
  extract_lets up' serial taken after up resumes greet
  cases resume with
  | none => rfl
  | some h =>
    have found : (slotIds.find? fun i => decide (resumes h i)) = up'.resumable p serial h :=
      find_slot_eq fun i => decide_eq_true_iff.trans (up'.resumable_eq_some_iff p serial h i).symm
    dsimp only
    rw [found, Option.bind_some]
    cases hr : up'.resumable p serial h with
    | none => rfl
    | some i =>
      have handle : up'.handleOf i = h := State.handleOf_resolve ((up'.resumable_eq_some_iff p serial h i).mp hr).1
      dsimp only
      rw [State.resumeAt, handle]
      rfl

end Sys2Proof.Machine
end

section
/-! PROOFS. What a judgement of HELD, a wafer's end and the loss of a head change, exactly (O40). -/
namespace Sys2Proof.Machine

/-! ### A judgement of HELD changes one port's HELD state and outbound queue (R121 to R124) -/

/-- The outbound queue of a port after its HELD state is judged: a HOLD or PROCEED joins where HELD changes on an UP
session. -/
def State.queueAfterJudging (s : State) (p : PortId) (h : Byte) (src : Option Source) : List HeadOut :=
  if s.heldBy p = (s.port p).held ∨ (s.port p).session ≠ .up then (s.port p).outbound
  else joinOutbound (s.port p).outbound (if s.heldBy p then .hold h (src.getD (s.firstHoldOf h)) else .proceed h)

theorem State.port_notify (s : State) (n : Notice) (q : PortId) : (s.notify n).port q = s.port q :=
  congrArg (tabGet · q) (s.notify_ports n)

theorem State.waferAt_notify (s : State) (n : Notice) (i : SlotId) : (s.notify n).waferAt i = s.waferAt i :=
  congrArg (fun v => (tabGet v i).wafer) (s.notify_slots n)

/-- What becomes of a port whose HELD state changes to `v` with the frame `f`. -/
theorem State.port_changeHeld (s : State) (p q : PortId) (f : HeadOut) (v : Bool) (n : Notice) :
    (((s.queueOutIfUp p f).withPort p fun q => { q with held := v }).notify n).port q =
      if q = p then { s.port p with
        held := v
        outbound := if (s.port p).session = .up then joinOutbound (s.port p).outbound f else (s.port p).outbound }
      else s.port q := by
  rw [State.port_notify, State.port_withPort]
  unfold State.queueOutIfUp State.queueOut
  by_cases hq : q = p
  · subst hq
    rw [if_pos rfl, if_pos rfl]
    by_cases up : (s.port q).session = .up
    · rw [if_pos up, if_pos up, State.port_withPort_self]
    · rw [if_neg up, if_neg up]
  · rw [if_neg hq, if_neg hq]
    split
    · rw [State.port_withPort_ne _ _ hq]
    · rfl

theorem State.queueAfterJudging_same {s : State} {p : PortId} (same : s.heldBy p = (s.port p).held) (h : Byte)
    (src : Option Source) : s.queueAfterJudging p h src = (s.port p).outbound := if_pos (.inl same)

theorem State.queueAfterJudging_change {s : State} {p : PortId} (change : s.heldBy p ≠ (s.port p).held) (h : Byte)
    (src : Option Source) : s.queueAfterJudging p h src = if (s.port p).session = .up then
      joinOutbound (s.port p).outbound (if s.heldBy p then .hold h (src.getD (s.firstHoldOf h)) else .proceed h)
      else (s.port p).outbound := by
  unfold State.queueAfterJudging
  by_cases up : (s.port p).session = .up
  · rw [if_neg fun hc => hc.elim change fun hn => hn up, if_pos up]
  · rw [if_pos (.inr up), if_neg up]

/-- What becomes of each port when one port's HELD state is judged. -/
theorem State.port_judgeHeld (s : State) (p q : PortId) (h : Byte) (src : Option Source) :
    (s.judgeHeld p h src).port q =
      if q = p then { s.port p with held := s.heldBy p, outbound := s.queueAfterJudging p h src } else s.port q := by
  unfold State.judgeHeld
  by_cases same : s.heldBy p = (s.port p).held
  · rw [if_pos same, State.queueAfterJudging_same same, same]
    split
    · next e => rw [e]
    · rfl
  · rw [if_neg same, State.settleLamps_port, State.queueAfterJudging_change same]
    by_cases held : s.heldBy p = true
    · rw [if_pos held, State.holdPort, State.port_changeHeld, held]
      rfl
    · rw [if_neg held, State.freePort, State.port_changeHeld, Bool.eq_false_iff.mpr held]
      rfl

theorem State.port_judgeHeld_ne (s : State) {p q : PortId} (hq : q ≠ p) (h : Byte) (src : Option Source) :
    (s.judgeHeld p h src).port q = s.port q := by
  rw [State.port_judgeHeld, if_neg hq]

/-- The parts of the state that a judgement of HELD leaves alone. -/
theorem State.judgeHeld_rest (s : State) (p : PortId) (h : Byte) (src : Option Source) :
    (s.judgeHeld p h src).slots = s.slots ∧ (s.judgeHeld p h src).lots = s.lots ∧ (s.judgeHeld p h src).map = s.map := by
  refine ⟨s.slots_judgeHeld p h src, ?_, ?_⟩ <;>
  · unfold State.judgeHeld State.holdPort State.freePort State.queueOutIfUp State.queueOut
    split
    · rfl
    · split <;> split <;> simp

theorem State.judgeBound_rest (s : State) (p : Option PortId) (h : Byte) (src : Option Source) :
    (s.judgeBound p h src).slots = s.slots ∧ (s.judgeBound p h src).lots = s.lots ∧ (s.judgeBound p h src).map = s.map := by
  cases p with
  | none => exact ⟨rfl, rfl, rfl⟩
  | some p => exact s.judgeHeld_rest p h src

theorem State.port_judgeBound_ne (s : State) {p : Option PortId} {q : PortId} (hq : some q ≠ p) (h : Byte)
    (src : Option Source) : (s.judgeBound p h src).port q = s.port q := by
  cases p with
  | none => rfl
  | some p => exact s.port_judgeHeld_ne (fun e => hq (congrArg some e)) h src

/-! ### A wafer's end (R26, R34) -/

theorem State.map_rollUp (s : State) (w : Wafer) (p : Option PortId) (h : Byte) : (s.rollUp w p h).map = s.map := by
  unfold State.rollUp
  split
  · rfl
  · split
    · rfl
    · dsimp only
      split
      · rfl
      · split
        · rw [State.notify_map]
        · rfl

theorem State.countAbandoned_rest (s : State) (w : Wafer) : (s.countAbandoned w).slots = s.slots ∧
    (s.countAbandoned w).ports = s.ports ∧ (s.countAbandoned w).map = s.map := by
  unfold State.countAbandoned
  split <;> exact ⟨rfl, rfl, rfl⟩

theorem State.dropAssignAt_rest (s : State) (p : Option PortId) (h : Byte) : (s.dropAssignAt p h).slots = s.slots ∧
    (s.dropAssignAt p h).lots = s.lots ∧ (s.dropAssignAt p h).map = s.map := by
  cases p <;> exact ⟨rfl, rfl, rfl⟩

theorem State.port_dropAssignAt (s : State) (p : Option PortId) (h : Byte) (q : PortId) :
    (s.dropAssignAt p h).port q = if some q = p then { s.port q with
      outbound := (s.port q).outbound.filter fun f => !f.assigns h } else s.port q := by
  cases p with
  | none => rfl
  | some p =>
    show (s.withPort p _).port q = _
    rw [State.port_withPort]
    simp only [Option.some.injEq]

/-- Changing the record of a FREE slot changes nothing. -/
theorem State.withWafer_none {s : State} {i : SlotId} (h : s.waferAt i = none) (f : Wafer → Wafer) :
    s.withWafer i f = s := by
  unfold State.withWafer
  rw [tabModify_id]
  rw [show (tabGet s.slots i).wafer = none from h, Option.map_none]
  exact congrArg _ h.symm

/-- A wafer's entering CLOSED changes its own record alone of the slots (R26). -/
theorem State.slots_enterClosed (s : State) (i : SlotId) (c : CloseCause) :
    (s.enterClosed i c).slots = (s.withWafer i (·.close c)).slots := by
  unfold State.enterClosed
  split
  · next h => rw [State.withWafer_none h]
  · dsimp only
    rw [State.settleLamps_slots, (State.judgeBound_rest _ _ _ _).1, State.slots_rollUp, State.notify_slots,
      (State.dropAssignAt_rest _ _ _).1]

theorem State.slots_enterAbandoned (s : State) (i : SlotId) :
    (s.enterAbandoned i).slots = (s.withWafer i Wafer.abandon).slots := by
  unfold State.enterAbandoned
  split
  · next h => rw [State.withWafer_none h]
  · dsimp only
    rw [State.settleLamps_slots, (State.judgeBound_rest _ _ _ _).1, (State.countAbandoned_rest _ _).1,
      (State.dropAssignAt_rest _ _ _).1]

theorem State.waferAt_enterClosed (s : State) (i j : SlotId) (c : CloseCause) :
    (s.enterClosed i c).waferAt j = if j = i then (s.waferAt i).map (·.close c) else s.waferAt j := by
  unfold State.waferAt
  rw [State.slots_enterClosed]
  exact s.waferAt_withWafer i j _

theorem State.waferAt_enterAbandoned (s : State) (i j : SlotId) :
    (s.enterAbandoned i).waferAt j = if j = i then (s.waferAt i).map Wafer.abandon else s.waferAt j := by
  unfold State.waferAt
  rw [State.slots_enterAbandoned]
  exact s.waferAt_withWafer i j _

theorem State.map_enterClosed (s : State) (i : SlotId) (c : CloseCause) : (s.enterClosed i c).map = s.map := by
  unfold State.enterClosed
  split
  · rfl
  · dsimp only
    rw [State.settleLamps_map, (State.judgeBound_rest _ _ _ _).2.2, State.map_rollUp, State.notify_map,
      (State.dropAssignAt_rest _ _ _).2.2]
    rfl

theorem State.map_enterAbandoned (s : State) (i : SlotId) : (s.enterAbandoned i).map = s.map := by
  unfold State.enterAbandoned
  split
  · rfl
  · dsimp only
    rw [State.settleLamps_map, (State.judgeBound_rest _ _ _ _).2.2, (State.countAbandoned_rest _ _).2.2,
      (State.dropAssignAt_rest _ _ _).2.2]
    rfl

/-- The state in which the port of a closing wafer is judged: the record closed, a waiting ASSIGN taken out, the
notice queued and the lot rolled up (R26, steps 1 to 5). -/
def State.closing (s : State) (i : SlotId) (w : Wafer) (c : CloseCause) : State :=
  (((s.withWafer i (·.close c)).dropAssignAt w.boundPort (s.handleOf i)).notify
    (.waferClosed w.boundPort (s.handleOf i) c)).rollUp w w.boundPort (s.handleOf i)

/-- The state in which the port of a wafer that enters ABANDONED is judged (R34). -/
def State.abandoning (s : State) (i : SlotId) (w : Wafer) : State :=
  ((s.withWafer i Wafer.abandon).dropAssignAt w.boundPort (s.handleOf i)).countAbandoned w

theorem State.enterClosed_eq {s : State} {i : SlotId} {w : Wafer} (hw : s.waferAt i = some w) (c : CloseCause) :
    s.enterClosed i c = ((s.closing i w c).judgeBound w.boundPort (s.handleOf i) none).settleLamps := by
  unfold State.enterClosed
  rw [hw]
  rfl

theorem State.enterAbandoned_eq {s : State} {i : SlotId} {w : Wafer} (hw : s.waferAt i = some w) :
    s.enterAbandoned i = ((s.abandoning i w).judgeBound w.boundPort (s.handleOf i) none).settleLamps := by
  unfold State.enterAbandoned
  rw [hw]
  rfl

theorem State.port_closing (s : State) (i : SlotId) (w : Wafer) (c : CloseCause) (q : PortId) :
    (s.closing i w c).port q = if some q = w.boundPort then { s.port q with
      outbound := (s.port q).outbound.filter fun f => !f.assigns (s.handleOf i) } else s.port q := by
  unfold State.closing
  rw [State.port, State.ports_rollUp, ← State.port, State.port_notify, State.port_dropAssignAt]
  rfl

theorem State.port_abandoning (s : State) (i : SlotId) (w : Wafer) (q : PortId) :
    (s.abandoning i w).port q = if some q = w.boundPort then { s.port q with
      outbound := (s.port q).outbound.filter fun f => !f.assigns (s.handleOf i) } else s.port q := by
  unfold State.abandoning
  rw [State.port, (State.countAbandoned_rest _ _).2.1, ← State.port, State.port_dropAssignAt]
  rfl

/-- Only the port it was bound to changes at a wafer's close. -/
theorem State.port_enterClosed_ne {s : State} {i : SlotId} {q : PortId}
    (hq : ∀ w, s.waferAt i = some w → w.boundPort ≠ some q) (c : CloseCause) : (s.enterClosed i c).port q = s.port q := by
  cases hw : s.waferAt i with
  | none =>
    unfold State.enterClosed
    rw [hw]
  | some w =>
    have hne : some q ≠ w.boundPort := (hq w hw).symm
    rw [State.enterClosed_eq hw, State.settleLamps_port, State.port_judgeBound_ne _ hne, State.port_closing, if_neg hne]

/-- A close leaves the touchdown lists alone. -/
theorem State.touchdowns_enterClosed (s : State) (i : SlotId) (c : CloseCause) (q : PortId) :
    ((s.enterClosed i c).port q).touchdowns = (s.port q).touchdowns := by
  cases hw : s.waferAt i with
  | none =>
    unfold State.enterClosed
    rw [hw]
  | some w =>
    have closing : ((s.closing i w c).port q).touchdowns = (s.port q).touchdowns := by
      rw [State.port_closing]
      split <;> rfl
    rw [State.enterClosed_eq hw, State.settleLamps_port]
    cases w.boundPort with
    | none => exact closing
    | some p =>
      show (((s.closing i w c).judgeHeld p _ _).port q).touchdowns = _
      rw [State.port_judgeHeld]
      split
      · next e => rw [← closing, e]
      · exact closing

/-- After a close HELD of the port that was bound is what the wafers still bound decide (R121). -/
theorem State.held_enterClosed {s : State} {i : SlotId} {w : Wafer} {p : PortId} (hw : s.waferAt i = some w)
    (hp : w.boundPort = some p) (c : CloseCause) :
    ((s.enterClosed i c).port p).held = (s.enterClosed i c).heldBy p := by
  rw [State.enterClosed_eq hw, hp, State.settleLamps_port]
  show (((s.closing i w c).judgeHeld p _ _).port p).held = _
  rw [State.held_judgeHeld, if_pos rfl]
  exact (State.heldBy_slots (State.slots_judgeHeld _ _ _ _) p).symm

end Sys2Proof.Machine
end

section
/-! PROOFS. The loss of a head, step by step and as a whole, and what causes one (O40). -/
namespace Sys2Proof.Machine

/-! ### Changing slots one after another -/

/-- Steps that each change one slot's record by `g`, taken for distinct slots. -/
theorem State.waferAt_foldl {f : State → SlotId → State} {g : Wafer → Wafer}
    (hf : ∀ s i j, (f s i).waferAt j = if j = i then (s.waferAt i).map g else s.waferAt j) (is : List SlotId) :
    is.Nodup → ∀ (s : State) (j : SlotId), (is.foldl f s).waferAt j = if j ∈ is then (s.waferAt j).map g else s.waferAt j := by
  induction is with
  | nil => exact fun _ _ _ => rfl
  | cons i is ih =>
    intro hnd s j
    obtain ⟨hi, hnd⟩ := List.nodup_cons.mp hnd
    rw [List.foldl_cons, ih hnd, hf]
    by_cases hj : j = i
    · subst hj
      rw [if_pos rfl, if_neg hi, if_pos List.mem_cons_self]
    · rw [if_neg hj]
      simp only [List.mem_cons, hj, false_or]

/-- A change of a record that is made only where a condition on it holds. -/
theorem State.waferAt_if {s t : State} {i j : SlotId} {P : Wafer → Prop} [DecidablePred P] {g : Wafer → Wafer}
    (ht : ∀ w, s.waferAt i = some w → P w → t.waferAt j = if j = i then (s.waferAt i).map g else s.waferAt j)
    (hs : (∀ w, s.waferAt i = some w → ¬P w) → t = s) :
    t.waferAt j = if j = i then (s.waferAt i).map (fun w => if P w then g w else w) else s.waferAt j := by
  cases hw : s.waferAt i with
  | none =>
    rw [hs fun w' hw' => absurd (hw'.symm.trans hw) (Option.some_ne_none w')]
    split
    · next e => rw [e, hw]; rfl
    · rfl
  | some w =>
    by_cases hP : P w
    · rw [ht w hw hP, hw]
      simp only [Option.map_some, if_pos hP]
    · have same : t = s := hs fun w' hw' => Option.some.inj (hw.symm.trans hw') ▸ hP
      simp only [same, Option.map_some, if_neg hP]
      split
      · next e => rw [e, hw]
      · rfl

/-! ### Voiding a list (R60) -/

theorem voidedAfter_succ (v n : Nat) : voidedAfter (bump v) n = voidedAfter v (n + 1) := by
  unfold voidedAfter bump satAdd countCap
  split <;> split <;> omega

theorem State.resolve_countVoided (s : State) (e : Entry) (h : Byte) : (s.countVoided e).resolve h = s.resolve h :=
  ((State.WorkFrame.refl s).countVoided e).resolve h

/-- Counting the voided entries of a list raises each wafer's touchdowns-voided by the entries that name it. -/
theorem State.waferAt_countVoided (es : List Entry) : ∀ (s : State) (i : SlotId),
    (es.foldl State.countVoided s).waferAt i = (s.waferAt i).map fun w =>
      { w with touchdownsVoided := voidedAfter w.touchdownsVoided (s.naming es i) } := by
  induction es with
  | nil => exact fun s i => (Option.map_id' (x := s.waferAt i)).symm
  | cons e es ih =>
    intro s i
    have names : (s.countVoided e).naming es i = s.naming es i := by
      simp only [State.naming, State.resolve_countVoided]
    rw [List.foldl_cons, ih, names]
    by_cases he : s.resolve e.handle = some i
    · have one : s.naming (e :: es) i = s.naming es i + 1 := by simp [State.naming, he]
      rw [State.countVoided, he, one]
      dsimp only
      rw [State.waferAt_withWafer_self, Option.map_map]
      exact congrArg (Option.map · _) (funext fun w => by simp only [Function.comp, voidedAfter_succ])
    · have one : s.naming (e :: es) i = s.naming es i := by simp [State.naming, he]
      have other : (s.countVoided e).waferAt i = s.waferAt i := by
        unfold State.countVoided
        split
        · next j hj => exact State.waferAt_withWafer_ne _ _ fun e => he (hj.trans (congrArg some e.symm))
        · rfl
      rw [other, one]

theorem State.countVoided_rest (s : State) (e : Entry) : (s.countVoided e).ports = s.ports ∧
    (s.countVoided e).lots = s.lots ∧ (s.countVoided e).map = s.map := by
  unfold State.countVoided
  split <;> exact ⟨rfl, rfl, rfl⟩

theorem State.countVoideds_rest (es : List Entry) : ∀ s : State, (es.foldl State.countVoided s).ports = s.ports ∧
    (es.foldl State.countVoided s).lots = s.lots ∧ (es.foldl State.countVoided s).map = s.map := by
  induction es with
  | nil => exact fun _ => ⟨rfl, rfl, rfl⟩
  | cons e es ih =>
    intro s
    obtain ⟨hp, hl, hm⟩ := ih (s.countVoided e)
    obtain ⟨hp', hl', hm'⟩ := s.countVoided_rest e
    exact ⟨hp.trans hp', hl.trans hl', hm.trans hm'⟩

theorem State.port_voidAll (s : State) (p q : PortId) :
    (s.voidAll p).port q = if q = p then { s.port p with touchdowns := [] } else s.port q := by
  have same : ∀ r, ((s.port p).touchdowns.foldl State.countVoided s).port r = s.port r := fun r =>
    congrArg (tabGet · r) (State.countVoideds_rest _ s).1
  unfold State.voidAll State.setTouchdowns
  rw [State.port_withPort, same]
  split
  · next e => rw [e]
  · rfl

theorem State.waferAt_voidAll (s : State) (p : PortId) (i : SlotId) :
    (s.voidAll p).waferAt i = (s.waferAt i).map fun w =>
      { w with touchdownsVoided := voidedAfter w.touchdownsVoided (s.naming (s.port p).touchdowns i) } :=
  State.waferAt_countVoided _ s i

/-! ### The DRAINING wafers of the port close (R28 step 2) -/

/-- The record after the closes of a loss at a port. -/
def Wafer.afterCloses (p : PortId) (w : Wafer) : Wafer :=
  if w.state = .draining ∧ w.boundPort = some p then w.close .headLost else w

/-- The record after the suspensions of a loss at a port. -/
def Wafer.afterSuspension (p : PortId) (w : Wafer) : Wafer :=
  if w.state = .active ∧ w.boundPort = some p then { w with state := .suspended } else w

/-- The wafer in a slot is DRAINING and bound to the port. -/
def State.drainsAt (s : State) (p : PortId) (i : SlotId) : Prop :=
  (s.waferAt i).map Wafer.binding = some (.draining, some p)

theorem State.drainsAt_iff (s : State) (p : PortId) (i : SlotId) :
    s.drainsAt p i ↔ ∃ w, s.waferAt i = some w ∧ w.state = .draining ∧ w.boundPort = some p := by
  unfold State.drainsAt
  cases s.waferAt i <;> simp [Wafer.binding]

theorem State.closeIfDraining_pos {s : State} {p : PortId} {i : SlotId} (h : s.drainsAt p i) :
    s.closeIfDraining p i = s.enterClosed i .headLost := by
  obtain ⟨w, hw, hc⟩ := (s.drainsAt_iff p i).mp h
  show State.closeIfDraining p s i = _
  unfold State.closeIfDraining
  rw [hw]
  exact if_pos hc

theorem State.closeIfDraining_neg {s : State} {p : PortId} {i : SlotId} (h : ¬s.drainsAt p i) :
    s.closeIfDraining p i = s := by
  show State.closeIfDraining p s i = _
  unfold State.closeIfDraining
  split
  · next w hw => exact if_neg fun hc => h ((s.drainsAt_iff p i).mpr ⟨w, hw, hc⟩)
  · rfl

theorem State.waferAt_closeIfDraining (p : PortId) (s : State) (i j : SlotId) :
    (s.closeIfDraining p i).waferAt j = if j = i then (s.waferAt i).map (Wafer.afterCloses p) else s.waferAt j :=
  State.waferAt_if
    (fun w hw hc => by
      rw [State.closeIfDraining_pos ((s.drainsAt_iff p i).mpr ⟨w, hw, hc⟩), State.waferAt_enterClosed])
    (fun hn => State.closeIfDraining_neg fun hd => by
      obtain ⟨w, hw, hc⟩ := (s.drainsAt_iff p i).mp hd
      exact hn w hw hc)

/-- The closes of a loss change no port but for the queue and HELD of the one lost, and no lot where none drains. -/
theorem State.closes_ports (p : PortId) (is : List SlotId) : ∀ s : State,
    (∀ q, q ≠ p → (is.foldl (State.closeIfDraining p) s).port q = s.port q) ∧
    (∀ q, ((is.foldl (State.closeIfDraining p) s).port q).touchdowns = (s.port q).touchdowns) ∧
    (is.foldl (State.closeIfDraining p) s).map = s.map := by
  induction is with
  | nil => exact fun s => ⟨fun _ _ => rfl, fun _ => rfl, rfl⟩
  | cons i is ih =>
    intro s
    obtain ⟨hq, ht, hm⟩ := ih (s.closeIfDraining p i)
    by_cases hd : s.drainsAt p i
    · rw [State.closeIfDraining_pos hd] at hq ht hm
      obtain ⟨w, hw, -, hp⟩ := (s.drainsAt_iff p i).mp hd
      rw [List.foldl_cons, State.closeIfDraining_pos hd]
      refine ⟨fun q hne => (hq q hne).trans (State.port_enterClosed_ne (fun w' hw' e => hne ?_) _),
        fun q => (ht q).trans (State.touchdowns_enterClosed _ _ _ _), hm.trans (State.map_enterClosed _ _ _)⟩
      cases hw.symm.trans hw'
      exact Option.some.inj (e.symm.trans hp)
    · rw [State.closeIfDraining_neg hd] at hq ht hm
      rw [List.foldl_cons, State.closeIfDraining_neg hd]
      exact ⟨hq, ht, hm⟩

theorem State.closes_none {p : PortId} {is : List SlotId} : ∀ {s : State}, (∀ i ∈ is, ¬s.drainsAt p i) →
    is.foldl (State.closeIfDraining p) s = s := by
  induction is with
  | nil => exact fun _ => rfl
  | cons i is ih =>
    intro s h
    rw [List.foldl_cons, State.closeIfDraining_neg (h i List.mem_cons_self)]
    exact ih fun j hj => h j (List.mem_cons_of_mem _ hj)

/-- Where a wafer closes, HELD of the port is afterwards what the wafers still bound decide (R121). -/
theorem State.closes_held {p : PortId} {is : List SlotId} : ∀ {s : State},
    (∃ i ∈ is, s.drainsAt p i) ∨ (s.port p).held = s.heldBy p →
    ((is.foldl (State.closeIfDraining p) s).port p).held = (is.foldl (State.closeIfDraining p) s).heldBy p := by
  induction is with
  | nil => exact fun h => h.elim (fun ⟨_, hm, _⟩ => nomatch hm) id
  | cons i is ih =>
    intro s h
    by_cases hd : s.drainsAt p i
    · obtain ⟨w, hw, -, hp⟩ := (s.drainsAt_iff p i).mp hd
      rw [List.foldl_cons, State.closeIfDraining_pos hd]
      exact ih (.inr (State.held_enterClosed hw hp _))
    · rw [List.foldl_cons, State.closeIfDraining_neg hd]
      refine ih (h.imp_left fun ⟨j, hj, hdj⟩ => ⟨j, ?_, hdj⟩)
      exact (List.mem_cons.mp hj).resolve_left fun e => hd (e ▸ hdj)

/-! ### The ACTIVE wafers of the port become SUSPENDED (R28 step 3) -/

theorem State.suspendIfActive_rest (p : PortId) (s : State) (i : SlotId) : (s.suspendIfActive p i).ports = s.ports ∧
    (s.suspendIfActive p i).lots = s.lots ∧ (s.suspendIfActive p i).map = s.map := by
  show (State.suspendIfActive p s i).ports = _ ∧ (State.suspendIfActive p s i).lots = _ ∧ (State.suspendIfActive p s i).map = _
  unfold State.suspendIfActive
  split
  · split
    · rw [State.notify_ports, State.notify_lots, State.notify_map]
      exact ⟨rfl, rfl, rfl⟩
    · exact ⟨rfl, rfl, rfl⟩
  · exact ⟨rfl, rfl, rfl⟩

theorem State.suspensions_rest (p : PortId) (is : List SlotId) : ∀ s : State,
    (is.foldl (State.suspendIfActive p) s).ports = s.ports ∧
    (is.foldl (State.suspendIfActive p) s).lots = s.lots ∧ (is.foldl (State.suspendIfActive p) s).map = s.map := by
  induction is with
  | nil => exact fun _ => ⟨rfl, rfl, rfl⟩
  | cons i is ih =>
    intro s
    obtain ⟨hp, hl, hm⟩ := ih (s.suspendIfActive p i)
    obtain ⟨hp', hl', hm'⟩ := State.suspendIfActive_rest p s i
    exact ⟨hp.trans hp', hl.trans hl', hm.trans hm'⟩

theorem State.waferAt_suspendIfActive (p : PortId) (s : State) (i j : SlotId) :
    (s.suspendIfActive p i).waferAt j = if j = i then (s.waferAt i).map (Wafer.afterSuspension p) else s.waferAt j := by
  refine State.waferAt_if (P := fun w => w.state = .active ∧ w.boundPort = some p) (fun w hw hc => ?_) fun hn => ?_
  · show (State.suspendIfActive p s i).waferAt j = _
    unfold State.suspendIfActive
    rw [hw]
    dsimp only
    rw [if_pos hc, State.waferAt_notify, State.waferAt_withWafer, hw]
  · show State.suspendIfActive p s i = _
    unfold State.suspendIfActive
    split
    · next w hw => exact if_neg (hn w hw)
    · rfl

/-! ### The loss as a whole (R158) -/

/-- The state after the first three steps of a loss: the list voided, DRAINING wafers closed, ACTIVE ones suspended. -/
def State.unmanned (s : State) (p : PortId) : State :=
  slotIds.foldl (State.suspendIfActive p) (slotIds.foldl (State.closeIfDraining p) (s.voidAll p))

theorem State.lose_eq (s : State) (p : PortId) (cause : LossCause) : s.lose p cause =
    (((s.unmanned p).withPort p (Port.endSession cause)).notify (.headLost p cause)).settleLamps := rfl

theorem State.unmanned_frame (s : State) (p : PortId) : s.WorkFrame (s.unmanned p) :=
  (State.WorkFrame.refl s).lossSteps p

/-- What a loss makes of a wafer: its voided entries are counted, and it closes or is suspended. -/
def Wafer.afterLoss (p : PortId) (voided : Nat) (w : Wafer) : Wafer :=
  let v := { w with touchdownsVoided := voidedAfter w.touchdownsVoided voided }
  if w.state = .draining ∧ w.boundPort = some p then v.close .headLost
  else if w.state = .active ∧ w.boundPort = some p then { v with state := .suspended }
  else v

theorem Wafer.afterLoss_eq (p : PortId) (n : Nat) (w : Wafer) : w.afterLoss p n =
    (({ w with touchdownsVoided := voidedAfter w.touchdownsVoided n }.afterCloses p).afterSuspension p) := by
  unfold Wafer.afterLoss Wafer.afterCloses
  dsimp only
  by_cases hd : w.state = .draining ∧ w.boundPort = some p
  · rw [if_pos hd, if_pos hd]
    exact (if_neg fun hc => nomatch hc.1).symm
  · rw [if_neg hd, if_neg hd]
    rfl

theorem State.waferAt_unmanned (s : State) (p : PortId) (i : SlotId) :
    (s.unmanned p).waferAt i = (s.waferAt i).map (Wafer.afterLoss p (s.naming (s.port p).touchdowns i)) := by
  unfold State.unmanned
  rw [State.waferAt_foldl (State.waferAt_suspendIfActive p) _ slotIds_nodup, if_pos (mem_slotIds i),
    State.waferAt_foldl (State.waferAt_closeIfDraining p) _ slotIds_nodup, if_pos (mem_slotIds i), State.waferAt_voidAll,
    Option.map_map, Option.map_map]
  exact congrArg (Option.map · _) (funext fun w => (Wafer.afterLoss_eq p _ w).symm)

theorem State.slots_lose (s : State) (p : PortId) (cause : LossCause) : (s.lose p cause).slots = (s.unmanned p).slots := by
  rw [State.lose_eq]
  generalize s.unmanned p = u
  rw [State.settleLamps_slots, State.notify_slots, State.withPort_slots]

theorem State.waferAt_lose (s : State) (p : PortId) (cause : LossCause) (i : SlotId) :
    (s.lose p cause).waferAt i = (s.waferAt i).map (Wafer.afterLoss p (s.naming (s.port p).touchdowns i)) :=
  (congrArg (fun v => (tabGet v i).wafer) (s.slots_lose p cause)).trans (s.waferAt_unmanned p i)

theorem State.generation_lose (s : State) (p : PortId) (cause : LossCause) (i : SlotId) :
    (tabGet (s.lose p cause).slots i).generation = (tabGet s.slots i).generation :=
  (congrArg (fun v => (tabGet v i).generation) (s.slots_lose p cause)).trans ((s.unmanned_frame p).generation i)

theorem State.port_lose_ne (s : State) {p q : PortId} (hq : q ≠ p) (cause : LossCause) :
    (s.lose p cause).port q = s.port q := by
  rw [State.lose_eq, State.settleLamps_port, State.port_notify, State.port_withPort_ne _ _ hq, State.port, State.unmanned,
    (State.suspensions_rest p slotIds _).1, ← State.port, (State.closes_ports p slotIds _).1 q hq, State.port_voidAll,
    if_neg hq]

/-- Some wafer drains at the port. -/
def State.someDrains (s : State) (p : PortId) : Prop := ∃ i, s.drainsAt p i

theorem State.drainsAt_voidAll (s : State) (p : PortId) (i : SlotId) : (s.voidAll p).drainsAt p i ↔ s.drainsAt p i := by
  unfold State.drainsAt
  rw [State.waferAt_voidAll, Option.map_map]
  exact Iff.rfl

theorem State.closes_voidAll_none {s : State} {p : PortId} (h : ∀ i, ¬s.drainsAt p i) :
    slotIds.foldl (State.closeIfDraining p) (s.voidAll p) = s.voidAll p :=
  State.closes_none fun i _ hd => h i ((s.drainsAt_voidAll p i).mp hd)

theorem State.lots_lose {s : State} {p : PortId} (h : ∀ i, ¬s.drainsAt p i) (cause : LossCause) :
    (s.lose p cause).lots = s.lots := by
  rw [State.lose_eq, State.settleLamps_lots, State.notify_lots, State.withPort_lots, State.unmanned,
    (State.suspensions_rest p slotIds _).2.1, State.closes_voidAll_none h]
  exact (State.countVoideds_rest _ s).2.1

theorem State.map_unmanned (s : State) (p : PortId) : (s.unmanned p).map = s.map := by
  rw [State.unmanned, (State.suspensions_rest p slotIds _).2.2, (State.closes_ports p slotIds _).2.2]
  exact (State.countVoideds_rest _ s).2.2

/-- HELD after the closes of a loss is what the ACTIVE and SUSPENDED wafers of the port decide. -/
theorem State.heldBy_closes (s : State) (p : PortId) :
    (slotIds.foldl (State.closeIfDraining p) (s.voidAll p)).heldBy p = true ↔
      ∃ i, ((s.waferAt i).any fun w =>
        (w.state == .active || w.state == .suspended) && w.boundPort == some p && w.holds) = true := by
  rw [State.heldBy_iff]
  refine exists_congr fun i => ?_
  rw [State.waferAt_foldl (State.waferAt_closeIfDraining p) _ slotIds_nodup, if_pos (mem_slotIds i), State.waferAt_voidAll]
  cases s.waferAt i with
  | none => simp
  | some w =>
    simp only [Option.map_some, Option.some.injEq, exists_eq_left', Option.any_some]
    unfold Wafer.afterCloses
    cases hst : w.state <;> by_cases hp : w.boundPort = some p <;>
      simp [hp, Wafer.pins, Wafer.boundTo, Wafer.close, WaferState.isBound, Wafer.holds]

/-- What a loss makes of the port: the closes may change HELD, and steps 3 and 4 end the session (R158). -/
theorem State.port_lose (s : State) (p : PortId) (cause : LossCause) [Decidable (s.someDrains p)] :
    (s.lose p cause).port p = Port.endSession cause { s.port p with
      touchdowns := []
      outbound := []
      held := if s.someDrains p then (slotIds.foldl (State.closeIfDraining p) (s.voidAll p)).heldBy p
        else (s.port p).held } := by
  have unmanned : (s.unmanned p).port p = (slotIds.foldl (State.closeIfDraining p) (s.voidAll p)).port p :=
    congrArg (tabGet · p) (State.suspensions_rest p slotIds _).1
  have held : ((slotIds.foldl (State.closeIfDraining p) (s.voidAll p)).port p).held =
      if s.someDrains p then (slotIds.foldl (State.closeIfDraining p) (s.voidAll p)).heldBy p else (s.port p).held := by
    by_cases hd : s.someDrains p
    · obtain ⟨i, hi⟩ := hd
      rw [if_pos ⟨i, hi⟩]
      exact State.closes_held (.inl ⟨i, mem_slotIds i, (s.drainsAt_voidAll p i).mpr hi⟩)
    · rw [if_neg hd, State.closes_voidAll_none fun i hi => hd ⟨i, hi⟩, State.port_voidAll, if_pos rfl]
  have touchdowns : ((s.unmanned p).port p).touchdowns = [] := by
    rw [unmanned, (State.closes_ports p slotIds _).2.1, State.port_voidAll, if_pos rfl]
  have still := (s.unmanned_frame p).ports p
  rw [State.lose_eq, State.settleLamps_port, State.port_notify, State.port_withPort_self, ← held, ← unmanned]
  generalize (s.unmanned p).port p = q at touchdowns still
  have parts : { q with outbound := [] } = { s.port p with touchdowns := [], outbound := [], held := q.held } := by
    have := congrArg (fun r : Port => { r with held := q.held, touchdowns := q.touchdowns }) still
    rw [← touchdowns]
    exact this
  rw [← parts]
  cases cause <;> rfl

end Sys2Proof.Machine
end

section
/-! PROOFS. The steps of a loss as the statement writes them, and what brings one about (O40). -/
namespace Sys2Proof.Machine

/-! ### The steps of a loss, written out -/

theorem State.countVoided_eq (s : State) (e : Entry) : s.countVoided e =
    match s.resolve e.handle with
    | none => s
    | some i => s.withWafer i fun w => { w with touchdownsVoided := min (w.touchdownsVoided + 1) 16777215 } := by
  unfold State.countVoided
  cases s.resolve e.handle <;> rfl

theorem State.closeIfDraining_eq (p : PortId) (s : State) (i : SlotId) : State.closeIfDraining p s i =
    if (s.waferAt i).map (fun w => (w.state, w.boundPort)) = some (.draining, some p) then s.enterClosed i .headLost
    else s := by
  by_cases h : s.drainsAt p i
  · exact (State.closeIfDraining_pos h).trans (if_pos h).symm
  · exact (State.closeIfDraining_neg h).trans (if_neg h).symm

theorem State.suspendIfActive_eq (p : PortId) (s : State) (i : SlotId) : State.suspendIfActive p s i =
    if (s.waferAt i).map (fun w => (w.state, w.boundPort)) = some (.active, some p) then
      (s.withWafer i fun w => { w with state := .suspended }).notify (.waferSuspended p (s.handleOf i))
    else s := by
  unfold State.suspendIfActive
  cases hw : s.waferAt i with
  | none => simp
  | some w => simp

theorem Port.endSession_eq (cause : LossCause) (q : Port) : q.endSession cause = { q with
    session := if cause = .disabled then .disabled else .lost cause
    silence := none, intake := [], outbound := []
    rdyOut := decide (cause ≠ .disabled)
    sending := if cause = .disabled then none else q.sending
    rx := if cause = .disabled then .hunt else q.rx } := by
  cases cause <;> rfl

/-- The part of the state that a loss leaves alone. -/
def State.frozen (s : State) : (List Host.Cell × Vector BinClass 64 × LampTable × HostLine × Bool × Profile) ×
    Identity × PageBytes × Vector PageBytes 6 × Option PageOp × List Instr :=
  ((s.map, s.bins, s.lampTable, s.host, s.alertEnable, s.defaultProfile), s.identity, s.page1, s.profilePages, s.pageOp,
    s.pending)

theorem State.frozen_notify (s : State) (n : Notice) : (s.notify n).frozen = s.frozen := by
  unfold State.notify
  split <;> rfl

theorem State.frozen_unmanned (s : State) (p : PortId) : (s.unmanned p).frozen = s.frozen := by
  have frame := s.unmanned_frame p
  simp only [State.frozen, s.map_unmanned p, frame.bins, frame.lampTable, frame.host, frame.alertEnable,
    frame.defaultProfile, frame.identity, frame.page1, frame.profilePages, frame.pageOp, frame.pending]

theorem State.frozen_lose (s : State) (p : PortId) (cause : LossCause) : (s.lose p cause).frozen = s.frozen := by
  rw [← s.frozen_unmanned p, State.lose_eq]
  generalize s.unmanned p = u
  exact State.frozen_notify _ _

/-- A state with the same frozen part differs in slots, lots, ports, notices and lamps alone. -/
theorem State.eq_of_frozen {s t : State} (h : t.frozen = s.frozen) : t = { s with
    slots := t.slots, lots := t.lots, ports := t.ports, notices := t.notices, overflow := t.overflow, lamps := t.lamps } := by
  simp only [State.frozen, Prod.mk.injEq] at h
  obtain ⟨⟨hm, hb, ht, hh, ha, hd⟩, hi, h1, hp, ho, hq⟩ := h
  rw [← hm, ← hb, ← ht, ← hh, ← ha, ← hd, ← hi, ← h1, ← hp, ← ho, ← hq]

/-! ### What the owners of head frames leave alone -/

theorem State.WorkFrame.refuseFrame {s t : State} (h : s.WorkFrame t) (p : PortId) (k : Byte) (r : RefuseReason)
    (a b : Byte) : s.WorkFrame (t.refuseFrame p k r a b) := h.queueOut p _

theorem State.WorkFrame.touch {s t : State} (h : s.WorkFrame t) (p : PortId) (bs : List Byte) :
    s.WorkFrame (t.touch p bs) := by
  unfold State.touch
  dsimp only
  split
  · exact h.refuseFrame p _ _ _ _
  · refine .queueOut ?_ p _
    split
    · exact h.setTouchdowns p _
    · exact h

theorem State.WorkFrame.site {s t : State} (h : s.WorkFrame t) (p : PortId) (bs : List Byte) :
    s.WorkFrame (t.site p bs) := by
  unfold State.site
  dsimp only
  split
  · exact h.refuseFrame p _ _ _ _
  · split
    · exact h.refuseFrame p _ _ _ _
    · exact h.setTouchdowns p _

theorem State.WorkFrame.lift {s t : State} (h : s.WorkFrame t) (p : PortId) (bs : List Byte) :
    s.WorkFrame (t.lift p bs) := by
  unfold State.lift
  dsimp only
  split
  · exact h.refuseFrame p _ _ _ _
  · split
    · exact h.refuseFrame p _ _ _ _
    · split
      · exact h.refuseFrame p _ _ _ _
      · split
        · exact (h.setTouchdowns p _).runPass p
        · exact h.setTouchdowns p _

theorem State.WorkFrame.unload {s t : State} (h : s.WorkFrame t) (p : PortId) (bs : List Byte) :
    s.WorkFrame (t.unload p bs) := by
  unfold State.unload
  dsimp only
  split
  · exact h.refuseFrame p _ _ _ _
  · split
    · split
      · split
        · exact h.refuseFrame p _ _ _ _
        · exact .settleLamps (h.withWafer _ _)
      · exact h.enterClosed _ _
    · exact h.refuseFrame p _ _ _ _

theorem State.WorkFrame.beat {s t : State} (h : s.WorkFrame t) (p : PortId) (bs : List Byte) :
    s.WorkFrame (t.beat p bs) := by
  unfold State.beat
  split
  · exact h
  · exact h.refuseFrame p _ _ _ _

theorem State.WorkFrame.queueHoldAfterWelcome {s t : State} (h : s.WorkFrame t) (p : PortId) :
    s.WorkFrame (t.queueHoldAfterWelcome p) := by
  unfold State.queueHoldAfterWelcome
  split
  · split
    · exact h.queueOut p _
    · exact h
  · exact h

/-- Steps 3 to 6 of an ANNOUNCE leave alone what the work on wafers does. -/
theorem State.announceUp_frame (s : State) (p : PortId) (serial : Word32) (maxSites : Nat) (resume : Option Byte) :
    (s.withPort p fun q => q.startSession serial maxSites).WorkFrame (s.announceUp p serial maxSites resume) := by
  have greets : ∀ {t u : State} (r : Option Byte) (ms : Nat), t.WorkFrame u → t.WorkFrame (u.greet p ms r).settleLamps :=
    fun _ _ h => .settleLamps (.queueHoldAfterWelcome (.queueOut (h.notify _) p _) p)
  rw [State.announceUp_eq]
  dsimp only
  split
  · exact greets _ _ (.judgeHeld ((State.WorkFrame.refl _).withWafer _ _) p _ _)
  · exact greets _ _ (.refl _)

/-- Taking a frame on an UP session by its owner leaves the port's session, and its timer as the taking leaves it. -/
theorem exec_frameCommand {c : Instr} {k : Byte} {p : PortId} (hc : (c, k) ∈ frameCommands p) {s t : State} {bs : List Byte}
    {rest : List Frame} (hf : s.HeadFinds p k bs rest) (up : (s.port p).session = .up) (he : exec c s = .next t) :
    (s.withPort p fun q => q.takeFrame k rest).WorkFrame t := by
  have owned : ∀ {owner : State → List Byte → State}, (∀ (u : State) bs, u.WorkFrame (owner u bs)) →
      (s.withPort p fun q => q.takeFrame k rest).WorkFrame (s.takeHead p k owner) := fun ho => by
    rw [State.takeHead_up hf up]
    exact ho _ _
  simp only [frameCommands, List.mem_cons, Prod.mk.injEq, List.not_mem_nil, or_false] at hc
  rcases hc with ⟨rfl, rfl⟩ | ⟨rfl, rfl⟩ | ⟨rfl, rfl⟩ | ⟨rfl, rfl⟩ | ⟨rfl, rfl⟩
  · cases he
    exact owned fun u bs => .touch (.refl u) p bs
  · cases he
    exact owned fun u bs => .site (.refl u) p bs
  · obtain ⟨-, rfl⟩ := State.guardCells_next he
    exact owned fun u bs => .lift (.refl u) p bs
  · cases he
    exact owned fun u bs => .unload (.refl u) p bs
  · cases he
    exact owned fun u bs => .beat (.refl u) p bs

/-! ### What brings a loss about (R156, R157, R164) -/

/-- A timer just loaded has time left, or is stopped (R155). -/
theorem LineSettings.loaded_ne_zero (l : LineSettings) : l.loaded ≠ some 0 := by
  unfold LineSettings.loaded
  split
  · exact nofun
  · next hc =>
    have : l.count.toNat ≠ 0 := fun h => hc (BitVec.eq_of_toNat_eq h)
    intro h
    have := Option.some.inj h
    unfold LineSettings.periodMs at this
    split at this <;> omega

theorem State.silenceExpiry_pos {s : State} {p : PortId} (up : (s.port p).session = .up)
    (hz : (s.port p).silence = some 0) : exec (.silenceExpiry p) s = .next (s.lose p .silence) :=
  congrArg Host.Outcome.next (if_pos ⟨up, hz⟩)

theorem State.silenceExpiry_neg {s : State} {p : PortId} (h : (s.port p).session ≠ .up ∨ (s.port p).silence ≠ some 0) :
    exec (.silenceExpiry p) s = .next s :=
  congrArg Host.Outcome.next (if_neg fun hc => h.elim (fun hu => hu hc.1) fun hz => hz hc.2)

theorem inMask_of_ne {mask : BitVec 5} {k : Byte} (hk : 0x12 ≤ k.toNat) :
    inMask mask k = mask.getLsbD (k.toNat - 0x12) := by
  have announce : (k == kindAnnounce) = false := beq_eq_false_iff_ne.mpr fun e => by rw [e] at hk; exact absurd hk (by decide)
  unfold inMask
  rw [announce, Bool.false_or, show kindTouch.toNat = 0x12 from rfl, decide_eq_true hk, Bool.true_and]

/-- The silence timer after a frame is taken on an UP session (R155). -/
theorem Port.takeFrame_silence {q : Port} (up : q.session = .up) (k : Byte) (rest : List Frame) :
    (q.takeFrame k rest).silence = if inMask q.settings.mask k then q.settings.loaded else q.silence := by
  unfold Port.takeFrame
  dsimp only
  by_cases hm : inMask q.settings.mask k = true
  · rw [if_pos ⟨up, hm⟩, if_pos hm]
  · rw [if_neg fun hc => hm hc.2, if_neg hm]
    rfl

theorem frameCommands_kind {c : Instr} {k : Byte} {p : PortId} (hc : (c, k) ∈ frameCommands p) : 0x12 ≤ k.toNat := by
  simp only [frameCommands, List.mem_cons, Prod.mk.injEq, List.not_mem_nil, or_false] at hc
  rcases hc with ⟨-, rfl⟩ | ⟨-, rfl⟩ | ⟨-, rfl⟩ | ⟨-, rfl⟩ | ⟨-, rfl⟩ <;> decide

/-- The timer of a port after a frame of a head command is taken on its UP session. -/
theorem exec_frameCommand_silence {c : Instr} {k : Byte} {p : PortId} (hc : (c, k) ∈ frameCommands p) {s t : State}
    {bs : List Byte} {rest : List Frame} (hf : s.HeadFinds p k bs rest) (up : (s.port p).session = .up)
    (he : exec c s = .next t) : (t.port p).session = .up ∧ (t.port p).silence =
      if (s.port p).settings.mask.getLsbD (k.toNat - 0x12) then (s.port p).settings.loaded else (s.port p).silence := by
  have frame := exec_frameCommand hc hf up he
  rw [frame.session, frame.silence, State.port_withPort_self, Port.takeFrame_session, Port.takeFrame_silence up,
    inMask_of_ne (frameCommands_kind hc)]
  exact ⟨up, rfl⟩

/-- After an ANNOUNCE on an UP session the timer of its port has not run out (R152, R155). -/
theorem exec_announce_silence {p : PortId} {s t : State} {bs : List Byte} {rest : List Frame}
    (hf : s.HeadFinds p 0x11 bs rest) (up : (s.port p).session = .up) (he : exec (.announce p) s = .next t) :
    (t.port p).silence ≠ some 0 := by
  obtain rfl : s.takeAnnounce p = t := Host.Outcome.next.inj he
  rw [State.takeAnnounce_finds hf]
  show (State.port (State.announce p _ bs) p).silence ≠ some 0
  unfold State.announce
  split
  · have frame := (State.WorkFrame.refl (s.withPort p fun q => q.takeFrame kindAnnounce rest)).refuseFrame p kindAnnounce
      .badLength (charAt bs 4) 0
    rw [frame.silence, State.port_withPort_self, Port.takeFrame_silence up]
    exact LineSettings.loaded_ne_zero _
  · dsimp only
    rw [(State.announceUp_frame _ p _ _ _).silence, State.port_withPort_self]
    exact LineSettings.loaded_ne_zero _

/-- Settles O40: the steps written out, what they make of each port and wafer, and the moments that bring a loss. -/
theorem lossesTakeTheirSteps : Obligations.LossesTakeTheirSteps := by
  refine ⟨fun s p cause => ?_, fun s p => State.silenceExpiry_pos, fun s p => State.silenceExpiry_neg,
    fun s p c k bs rest t hf up he => ⟨fun hc => State.silenceExpiry_neg (.inr ?_), fun hc hm hz => ?_⟩,
    fun s p rest hf => ?_⟩
  · extract_lets drains probes voidOne voided closed suspended ended t
    have hvoided : voided = s.voidAll p := by
      have : voidOne = State.countVoided := funext fun u => funext fun e => (u.countVoided_eq e).symm
      show (List.foldl voidOne s _).withPort p _ = _
      rw [this]
      rfl
    have hsuspended : suspended = s.unmanned p := by
      have closes : (fun (u : State) i => if drains u i then u.enterClosed i .headLost else u) = State.closeIfDraining p :=
        funext fun u => funext fun i => (State.closeIfDraining_eq p u i).symm
      have suspends : (fun (u : State) i => if probes u i then
          (u.withWafer i fun w => { w with state := .suspended }).notify (.waferSuspended p (u.handleOf i)) else u) =
          State.suspendIfActive p :=
        funext fun u => funext fun i => (State.suspendIfActive_eq p u i).symm
      show List.foldl _ (List.foldl _ voided slotIds) slotIds = _
      rw [hvoided, closes, suspends]
      rfl
    have hended : ended = (s.unmanned p).withPort p (Port.endSession cause) := by
      rw [← hsuspended, funext (Port.endSession_eq cause)]
    have hsome : (∃ i, drains s i) ↔ s.someDrains p := Iff.rfl
    refine ⟨?_, State.eq_of_frozen (s.frozen_lose p cause), ?_, fun q hq => s.port_lose_ne hq cause,
      fun i => ⟨s.generation_lose p cause i, s.waferAt_lose p cause i⟩, fun h => State.lots_lose h cause⟩
    · rw [hended, ← State.lose_eq]
    · classical
      have port := s.port_lose p cause
      rw [Port.endSession_eq] at port
      refine port.trans ?_
      by_cases hd : ∃ i, drains s i
      · rw [if_pos (hsome.mp hd), if_pos hd]
        have held := s.heldBy_closes p
        rw [← decide_eq_true_iff (p := ∃ i, _ = true), ← Bool.eq_iff_iff] at held
        rw [held]
      · rw [if_neg fun h => hd (hsome.mpr h), if_neg hd]
  · rcases hc with ⟨rfl, rfl⟩ | ⟨hc, hm⟩
    · exact exec_announce_silence hf up he
    · rw [(exec_frameCommand_silence hc hf up he).2, if_pos hm]
      exact LineSettings.loaded_ne_zero _
  · obtain ⟨up', silence⟩ := exec_frameCommand_silence hc hf up he
    rw [hm] at silence
    exact State.silenceExpiry_pos up' (silence.trans hz)
  · have read : portOf (read1 [BitVec.ofNat 8 p.val] 0) = some p := by
      rw [show read1 [BitVec.ofNat 8 p.val] 0 = p.val from oneChar (by omega)]
      exact portOf_val p
    have run : ∀ u : State, runHeadDrop u [BitVec.ofNat 8 p.val] =
        if (u.port p).session ≠ .up then u.refuse .headDown else (u.lose p .dropped).accept [BitVec.ofNat 8 p.val] := by
      intro u
      unfold runHeadDrop
      rw [if_neg (by simp), read]
    refine ⟨fun up => congrArg Host.Outcome.next ?_, fun up => congrArg Host.Outcome.next ?_⟩
    · rw [State.takeHost_finds hf, run, if_neg (show ¬((s.popHost rest).port p).session ≠ .up from not_not_intro up)]
      rfl
    · exact State.takeHost_answer hf ((run _).trans (if_pos up))

end Sys2Proof.Machine
end

section
/-! PROOFS. What may wait in an outbound queue, as a law of the queue, the wafers bound to its port and their handles
(R149; for O11). -/
namespace Sys2Proof.Machine

/-! ### Kinds of outbound frames (Table 9-6) -/

theorem HeadOut.isAssign_of_assigns {f : HeadOut} {h : Byte} (ha : f.assigns h = true) : f.isAssign = true := by
  cases f <;> simp_all [HeadOut.assigns, HeadOut.isAssign]

theorem HeadOut.eq_of_assigns {f : HeadOut} {g h : Byte} (hg : f.assigns g = true) (hh : f.assigns h = true) : g = h := by
  cases f <;> simp_all [HeadOut.assigns]

theorem HeadOut.not_assigns_of_isCancel {f : HeadOut} (hc : f.isCancel = true) (h : Byte) : f.assigns h = false := by
  cases f <;> simp_all [HeadOut.assigns, HeadOut.isCancel]

/-- A frame that the number of waiting CANCELs is about: an ASSIGN or a CANCEL. -/
def HeadOut.binds (f : HeadOut) : Bool := f.isAssign || f.isCancel

/-- Every frame is of one of four kinds: an answer, a HOLD or PROCEED, an ASSIGN, a CANCEL. -/
theorem outbound_length (q : List HeadOut) : q.length = (q.filter HeadOut.isAnswer).length +
    (q.filter HeadOut.isHoldFrame).length + (q.filter HeadOut.isAssign).length + (q.filter HeadOut.isCancel).length := by
  induction q with
  | nil => rfl
  | cons f q ih =>
    simp only [← List.countP_eq_length_filter, List.countP_cons, List.length_cons] at ih ⊢
    cases f <;> simp only [HeadOut.isAnswer, HeadOut.isHoldFrame, HeadOut.isAssign, HeadOut.isCancel, if_true,
      Bool.false_eq_true, if_false] <;> omega

/-- A filter that a condition implies may be taken first. -/
theorem filter_of_filter {α : Type} {f g : α → Bool} (h : ∀ x, f x = true → g x = true) (l : List α) :
    l.filter f = (l.filter g).filter f := by
  rw [List.filter_filter]
  exact List.filter_congr fun x _ => by
    cases hf : f x
    · rfl
    · rw [h x hf]; rfl

/-! ### The wafers no waiting ASSIGN names -/

/-- The slots of the wafers bound that no ASSIGN in a list names; `b` says which are bound, `hd` gives the handles. -/
def unassigned (b : SlotId → Bool) (hd : SlotId → Byte) (q : List HeadOut) : List SlotId :=
  slotIds.filter fun i => b i && !q.any (HeadOut.assigns (hd i))

/-- The number of CANCELs in a list. -/
def cancelsIn (q : List HeadOut) : Nat := (q.filter HeadOut.isCancel).length

section
variable {b : SlotId → Bool} {hd : SlotId → Byte} {q r : List HeadOut} {f : HeadOut} {i : SlotId}

theorem mem_unassigned : i ∈ unassigned b hd q ↔ b i = true ∧ ∀ f ∈ q, f.assigns (hd i) = false := by
  simp [unassigned, mem_slotIds]

theorem unassigned_congr {b' : SlotId → Bool} {hd' : SlotId → Byte}
    (h : ∀ i, b' i = b i ∧ (b i = true → r.any (HeadOut.assigns (hd' i)) = q.any (HeadOut.assigns (hd i)))) :
    unassigned b' hd' r = unassigned b hd q := by
  refine List.filter_congr fun i _ => ?_
  obtain ⟨hb, ha⟩ := h i
  rw [hb]
  cases hbi : b i
  · rfl
  · rw [ha hbi]

theorem unassigned_filter_binds : unassigned b hd (q.filter HeadOut.binds) = unassigned b hd q := by
  refine unassigned_congr fun i => ⟨rfl, fun _ => ?_⟩
  rw [List.any_filter]
  exact List.any_congr rfl fun f => by
    cases ha : f.assigns (hd i)
    · rw [Bool.and_false]
    · rw [HeadOut.binds, HeadOut.isAssign_of_assigns ha]; rfl

theorem cancelsIn_filter_binds : cancelsIn (q.filter HeadOut.binds) = cancelsIn q :=
  congrArg List.length (filter_of_filter (fun f h => by rw [HeadOut.binds, h, Bool.or_true]) q).symm

/-- A frame that is no ASSIGN names no wafer. -/
theorem unassigned_cons_of_not (h : f.isAssign = false) : unassigned b hd (f :: q) = unassigned b hd q := by
  refine unassigned_congr fun i => ⟨rfl, fun _ => ?_⟩
  rw [List.any_cons]
  cases ha : f.assigns (hd i)
  · rfl
  · rw [HeadOut.isAssign_of_assigns ha] at h; cases h

theorem unassigned_nodup : (unassigned b hd q).Nodup := slotIds_nodup.filter _

/-- An ASSIGN of a wafer that nothing behind it names takes just that wafer out of those unannounced. -/
theorem unassigned_cons_of_assigns (inj : Function.Injective hd) (hi : b i = true) (ha : f.assigns (hd i) = true)
    (hq : ∀ g ∈ q, g.assigns (hd i) = false) :
    (unassigned b hd (f :: q)).length + 1 = (unassigned b hd q).length := by
  have erase : unassigned b hd (f :: q) = (unassigned b hd q).erase i := by
    rw [unassigned_nodup.erase_eq_filter]
    unfold unassigned
    rw [List.filter_filter]
    refine List.filter_congr fun j _ => ?_
    rw [List.any_cons]
    by_cases hj : j = i
    · rw [hj, ha]; simp
    · have : f.assigns (hd j) = false := Bool.eq_false_iff.mpr fun h => hj (inj (HeadOut.eq_of_assigns h ha))
      simp [this, hj]
  have mem : i ∈ unassigned b hd q := mem_unassigned.mpr ⟨hi, hq⟩
  have := List.length_pos_of_mem mem
  rw [erase, List.length_erase_of_mem mem]
  omega

/-! ### The law of a queue -/

/-- At each waiting CANCEL: it, the CANCELs behind it and the wafers that no ASSIGN behind it names are 2 or fewer,
since all these were bound to the port when it joined. -/
def CancelsFit (b : SlotId → Bool) (hd : SlotId → Byte) : List HeadOut → Prop
  | [] => True
  | f :: r => (f.isCancel = true → 1 + cancelsIn r + (unassigned b hd r).length ≤ 2) ∧ CancelsFit b hd r

/-- The ASSIGNs that wait name distinct wafers bound to the port. -/
structure AssignLaw (b : SlotId → Bool) (hd : SlotId → Byte) (q : List HeadOut) : Prop where
  assigned : ∀ f ∈ q, f.isAssign = true → ∃ i, b i = true ∧ f.assigns (hd i) = true
  once : ∀ i, b i = true → (q.filter (HeadOut.assigns (hd i))).length ≤ 1

/-- What waits in an outbound queue whose port has the wafers `b` bound, of handles `hd` (R149). -/
structure QueueLaw (b : SlotId → Bool) (hd : SlotId → Byte) (q : List HeadOut) : Prop extends AssignLaw b hd q where
  answers : (q.filter HeadOut.isAnswer).length ≤ 3
  holds : (q.filter HeadOut.isHoldFrame).length ≤ 1
  cancels : CancelsFit b hd q

theorem QueueLaw.nil : QueueLaw b hd [] :=
  ⟨⟨fun _ hf => (List.not_mem_nil hf).elim, fun _ _ => Nat.zero_le _⟩, Nat.zero_le _, Nat.zero_le _, trivial⟩

theorem length_filter_tail_le {α : Type} (g : α → Bool) (x : α) (l : List α) :
    (l.filter g).length ≤ ((x :: l).filter g).length :=
  ((List.sublist_cons_self x l).filter g).length_le

theorem AssignLaw.tail (h : AssignLaw b hd (f :: q)) : AssignLaw b hd q :=
  ⟨fun g hg => h.assigned g (List.mem_cons_of_mem _ hg), fun i hi => (length_filter_tail_le _ f q).trans (h.once i hi)⟩

/-- The front frame leaves. -/
theorem QueueLaw.tail (h : QueueLaw b hd (f :: q)) : QueueLaw b hd q :=
  ⟨h.toAssignLaw.tail, (length_filter_tail_le _ f q).trans h.answers, (length_filter_tail_le _ f q).trans h.holds,
    h.cancels.2⟩

/-- An ASSIGN at the front is the only one of its wafer. -/
theorem AssignLaw.front_assign (h : AssignLaw b hd (f :: q)) (hf : f.isAssign = true) :
    ∃ i, b i = true ∧ f.assigns (hd i) = true ∧ ∀ g ∈ q, g.assigns (hd i) = false := by
  obtain ⟨i, hi, ha⟩ := h.assigned f List.mem_cons_self hf
  refine ⟨i, hi, ha, fun g hg => Bool.eq_false_iff.mpr fun hga => ?_⟩
  have once := h.once i hi
  rw [List.filter_cons_of_pos ha, List.length_cons] at once
  have := List.length_pos_of_mem (List.mem_filter.mpr ⟨hg, hga⟩)
  omega

/-- The ASSIGNs ahead of a place and the wafers no ASSIGN at all names are those no ASSIGN from that place on names. -/
theorem AssignLaw.assigns_ahead (inj : Function.Injective hd) : ∀ {q : List HeadOut}, AssignLaw b hd q → ∀ n : Nat,
    ((q.take n).filter HeadOut.isAssign).length + (unassigned b hd q).length = (unassigned b hd (q.drop n)).length := by
  intro q
  induction q with
  | nil => intro _ n; rw [List.take_nil, List.drop_nil]; exact Nat.zero_add _
  | cons f q ih =>
    intro h n
    cases n with
    | zero => exact Nat.zero_add _
    | succ n =>
      have ih := ih h.tail n
      rw [List.take_succ_cons, List.drop_succ_cons]
      by_cases hf : f.isAssign = true
      · obtain ⟨i, hi, ha, hq⟩ := h.front_assign hf
        have := unassigned_cons_of_assigns inj hi ha hq
        rw [List.filter_cons_of_pos hf, List.length_cons]
        omega
      · rw [List.filter_cons_of_neg hf, unassigned_cons_of_not (Bool.eq_false_iff.mpr hf), ih]

theorem cancelsIn_cons (hf : f.isCancel = true) : cancelsIn (f :: q) = cancelsIn q + 1 := by
  rw [cancelsIn, List.filter_cons_of_pos hf]
  rfl

theorem cancelsFit_iff : CancelsFit b hd q ↔ ∀ n < q.length, (q.drop n).head?.any HeadOut.isCancel = true →
    cancelsIn (q.drop n) + (unassigned b hd (q.drop n)).length ≤ 2 := by
  induction q with
  | nil => exact ⟨fun _ n hn => absurd hn (Nat.not_lt_zero n), fun _ => trivial⟩
  | cons f q ih =>
    have front : (f.isCancel = true → 1 + cancelsIn q + (unassigned b hd q).length ≤ 2) ↔
        (((f :: q).drop 0).head?.any HeadOut.isCancel = true →
          cancelsIn ((f :: q).drop 0) + (unassigned b hd ((f :: q).drop 0)).length ≤ 2) := by
      refine imp_congr_right fun hc => ?_
      have hn : f.isAssign = false := by cases f <;> simp_all [HeadOut.isCancel, HeadOut.isAssign]
      rw [List.drop_zero, cancelsIn_cons hc, unassigned_cons_of_not hn, Nat.add_comm 1]
    rw [CancelsFit, ih, front]
    constructor
    · rintro ⟨h0, hs⟩ n hn
      cases n with
      | zero => exact h0
      | succ n => exact hs n (Nat.lt_of_succ_lt_succ hn)
    · exact fun h => ⟨h 0 (Nat.succ_pos _), fun n hn => h (n + 1) (Nat.succ_lt_succ hn)⟩

theorem unassigned_nil : unassigned b hd [] = slotIds.filter b :=
  List.filter_congr fun i _ => by rw [List.any_nil, Bool.not_false, Bool.and_true]

theorem CancelsFit.count (h : CancelsFit b hd q) : cancelsIn q ≤ 2 := by
  induction q with
  | nil => exact Nat.zero_le _
  | cons f q ih =>
    by_cases hf : f.isCancel = true
    · have := h.1 hf
      rw [cancelsIn_cons hf]
      omega
    · rw [cancelsIn, List.filter_cons_of_neg hf]
      exact ih h.2

/-- The law keeps a queue to 8 frames, where no more than two wafers are bound (R40, R149). -/
theorem QueueLaw.length_le (h : QueueLaw b hd q) (inj : Function.Injective hd) (hb : (slotIds.filter b).length ≤ 2) :
    q.length ≤ 8 := by
  have assigns := h.assigns_ahead inj q.length
  rw [List.take_length, List.drop_length, unassigned_nil] at assigns
  have := h.answers
  have := h.holds
  have cancels : (q.filter HeadOut.isCancel).length ≤ 2 := h.cancels.count
  have := outbound_length q
  omega

/-! ### The law as frames come and go -/

theorem CancelsFit.filter_binds : CancelsFit b hd (q.filter HeadOut.binds) ↔ CancelsFit b hd q := by
  induction q with
  | nil => exact Iff.rfl
  | cons f q ih =>
    by_cases hf : f.binds = true
    · rw [List.filter_cons_of_pos hf, CancelsFit, CancelsFit, ih, cancelsIn_filter_binds, unassigned_filter_binds]
    · rw [List.filter_cons_of_neg hf, CancelsFit, ih]
      have : ¬f.isCancel = true := fun hc => hf (by rw [HeadOut.binds, hc, Bool.or_true])
      exact ⟨fun h => ⟨fun hc => absurd hc this, h⟩, And.right⟩

theorem HeadOut.not_isHoldFrame {f : HeadOut} (h : f.isAnswer = true ∨ f.binds = true) : (!f.isHoldFrame) = true := by
  cases f <;> simp_all [HeadOut.isHoldFrame, HeadOut.isAnswer, HeadOut.binds, HeadOut.isAssign, HeadOut.isCancel]

/-- HOLD and PROCEED frames join and leave without a change of the rest. -/
theorem QueueLaw.rejoin (h : QueueLaw b hd q)
    (e : r.filter (fun f => !f.isHoldFrame) = q.filter fun f => !f.isHoldFrame)
    (hold : (r.filter HeadOut.isHoldFrame).length ≤ 1) : QueueLaw b hd r := by
  have same : ∀ g : HeadOut → Bool, (∀ f, g f = true → (!f.isHoldFrame) = true) → r.filter g = q.filter g := fun g hg => by
    rw [filter_of_filter hg r, e, ← filter_of_filter hg q]
  have assigns : ∀ x, r.filter (HeadOut.assigns x) = q.filter (HeadOut.assigns x) := fun x => same _ fun f hf =>
    HeadOut.not_isHoldFrame (.inr (by rw [HeadOut.binds, HeadOut.isAssign_of_assigns hf]; rfl))
  have binds : r.filter HeadOut.binds = q.filter HeadOut.binds := same _ fun f hf => HeadOut.not_isHoldFrame (.inr hf)
  refine ⟨⟨fun f hf ha => ?_, fun i hi => ?_⟩, ?_, hold, ?_⟩
  · have hb : f.binds = true := by rw [HeadOut.binds, ha]; rfl
    have mem : f ∈ q.filter HeadOut.binds := binds ▸ List.mem_filter.mpr ⟨hf, hb⟩
    exact h.assigned f (List.mem_filter.mp mem).1 ha
  · rw [assigns]
    exact h.once i hi
  · rw [same _ fun f hf => HeadOut.not_isHoldFrame (.inl hf)]
    exact h.answers
  · exact CancelsFit.filter_binds.mp (binds ▸ CancelsFit.filter_binds.mpr h.cancels)

/-- An answer joins where 2 or fewer wait. -/
theorem QueueLaw.answer (h : QueueLaw b hd q) (hf : f.isAnswer = true) (hq : (q.filter HeadOut.isAnswer).length ≤ 2) :
    QueueLaw b hd (q ++ [f]) := by
  have kind : f.isHoldFrame = false ∧ f.isAssign = false ∧ f.binds = false ∧ ∀ x, f.assigns x = false := by
    cases f <;> simp_all [HeadOut.isAnswer, HeadOut.isHoldFrame, HeadOut.isAssign, HeadOut.binds, HeadOut.isCancel,
      HeadOut.assigns]
  obtain ⟨hhold, hassign, hbinds, hnames⟩ := kind
  refine ⟨⟨fun g hg ha => ?_, fun i hi => ?_⟩, ?_, ?_, ?_⟩
  · rcases List.mem_append.mp hg with hg | hg
    · exact h.assigned g hg ha
    · rw [List.mem_singleton.mp hg, hassign] at ha; cases ha
  · simpa [List.filter_append, hnames] using h.once i hi
  · rw [List.filter_append, List.length_append, List.filter_cons_of_pos hf]
    exact Nat.add_le_add_right hq 1
  · simpa [List.filter_append, hhold] using h.holds
  · refine CancelsFit.filter_binds.mp ?_
    rw [List.filter_append, List.filter_cons_of_neg (by rw [hbinds]; exact Bool.noConfusion), List.filter_nil,
      List.append_nil]
    exact CancelsFit.filter_binds.mpr h.cancels

/-! ### The law as wafers are bound and unbound -/

/-- Only the handles of the wafers bound matter. -/
theorem QueueLaw.congr {b' : SlotId → Bool} {hd' : SlotId → Byte} (h : QueueLaw b hd q) (hb : ∀ i, b' i = b i)
    (hh : ∀ i, b i = true → hd' i = hd i) : QueueLaw b' hd' q := by
  have fit : ∀ r, CancelsFit b hd r → CancelsFit b' hd' r := by
    intro r
    induction r with
    | nil => exact id
    | cons f r ih =>
      intro hr
      have same : unassigned b' hd' r = unassigned b hd r :=
        unassigned_congr fun i => ⟨hb i, fun hi => by rw [hh i hi]⟩
      exact ⟨by rw [same]; exact hr.1, ih hr.2⟩
  refine ⟨⟨fun f hf ha => ?_, fun i hi => ?_⟩, h.answers, h.holds, fit q h.cancels⟩
  · obtain ⟨i, hi, hn⟩ := h.assigned f hf ha
    exact ⟨i, (hb i).trans hi, by rw [hh i hi]; exact hn⟩
  · rw [hb] at hi
    rw [hh i hi]
    exact h.once i hi

/-- A list without a slot. -/
def without (b : SlotId → Bool) (i : SlotId) (j : SlotId) : Bool := b j && j != i

theorem without_iff {j : SlotId} : without b i j = true ↔ b j = true ∧ j ≠ i := by
  simp [without]

/-- The wafers left unannounced when a wafer is unbound and the ASSIGNs of it are dropped. -/
theorem unassigned_without_le (inj : Function.Injective hd) :
    (unassigned (without b i) hd (q.filter fun f => !f.assigns (hd i))).length ≤ (unassigned b hd q).length := by
  refine (List.Nodup.subperm unassigned_nodup fun j hj => ?_).length_le
  obtain ⟨hb, hn⟩ := mem_unassigned.mp hj
  obtain ⟨hb, hne⟩ := without_iff.mp hb
  refine mem_unassigned.mpr ⟨hb, fun f hf => Bool.eq_false_iff.mpr fun ha => ?_⟩
  have other : (!f.assigns (hd i)) = true := by
    rw [Bool.not_eq_true']
    exact Bool.eq_false_iff.mpr fun h => hne (inj (HeadOut.eq_of_assigns ha h))
  rw [hn f (List.mem_filter.mpr ⟨hf, other⟩)] at ha
  cases ha

theorem cancelsIn_drop (x : Byte) : cancelsIn (q.filter fun f => !f.assigns x) = cancelsIn q := by
  refine congrArg List.length (filter_of_filter (fun f hf => ?_) q).symm
  rw [HeadOut.not_assigns_of_isCancel hf]
  rfl

theorem CancelsFit.unbind (inj : Function.Injective hd) (h : CancelsFit b hd q) :
    CancelsFit (without b i) hd (q.filter fun f => !f.assigns (hd i)) := by
  induction q with
  | nil => exact trivial
  | cons f q ih =>
    by_cases hf : (!f.assigns (hd i)) = true
    · rw [List.filter_cons_of_pos (p := fun f : HeadOut => !f.assigns (hd i)) hf]
      refine ⟨fun hc => ?_, ih h.2⟩
      have := h.1 hc
      have := unassigned_without_le (b := b) (q := q) (i := i) inj
      rw [cancelsIn_drop]
      omega
    · rw [List.filter_cons_of_neg (p := fun f : HeadOut => !f.assigns (hd i)) hf]
      exact ih h.2

/-- A wafer is unbound, and the ASSIGN of it that waits is taken out (R149 rule 3). -/
theorem QueueLaw.unbind (inj : Function.Injective hd) (h : QueueLaw b hd q) (i : SlotId) :
    QueueLaw (without b i) hd (q.filter fun f => !f.assigns (hd i)) := by
  have le : ∀ g : HeadOut → Bool, ((q.filter fun f => !f.assigns (hd i)).filter g).length ≤ (q.filter g).length :=
    fun g => (List.filter_sublist.filter g).length_le
  refine ⟨⟨fun f hf ha => ?_, fun j hj => ?_⟩, (le _).trans h.answers, (le _).trans h.holds, h.cancels.unbind inj⟩
  · obtain ⟨hf, hn⟩ := List.mem_filter.mp hf
    obtain ⟨j, hj, hja⟩ := h.assigned f hf ha
    refine ⟨j, without_iff.mpr ⟨hj, fun e => ?_⟩, hja⟩
    rw [← e, hja] at hn
    cases hn
  · exact (le _).trans (h.once j (without_iff.mp hj).1)

theorem cancelsIn_snoc (hf : f.isCancel = true) : cancelsIn (q ++ [f]) = cancelsIn q + 1 := by
  rw [cancelsIn, List.filter_append, List.length_append, List.filter_cons_of_pos hf]
  rfl

/-- Unbinding a wafer that no ASSIGN names leaves one fewer unannounced. -/
theorem unassigned_without (hi : b i = true) (hq : ∀ g ∈ q, g.assigns (hd i) = false) (hf : ∀ x, f.assigns x = false) :
    (unassigned (without b i) hd (q ++ [f])).length + 1 = (unassigned b hd q).length := by
  have erase : unassigned (without b i) hd (q ++ [f]) = (unassigned b hd q).erase i := by
    rw [unassigned_nodup.erase_eq_filter]
    unfold unassigned without
    rw [List.filter_filter]
    refine List.filter_congr fun j _ => ?_
    rw [List.any_append, List.any_cons, hf, List.any_nil, Bool.or_false, Bool.or_false]
    cases b j <;> cases (j != i) <;> simp
  have mem : i ∈ unassigned b hd q := mem_unassigned.mpr ⟨hi, hq⟩
  have := List.length_pos_of_mem mem
  rw [erase, List.length_erase_of_mem mem]
  omega

theorem CancelsFit.cancel (h : CancelsFit b hd q) (hi : b i = true) (hq : ∀ g ∈ q, g.assigns (hd i) = false)
    (hf : f.isCancel = true) (two : (slotIds.filter b).length ≤ 2) : CancelsFit (without b i) hd (q ++ [f]) := by
  have names : ∀ x, f.assigns x = false := HeadOut.not_assigns_of_isCancel hf
  induction q with
  | nil =>
    refine ⟨fun _ => ?_, trivial⟩
    have fewer := unassigned_without (hd := hd) (q := []) hi hq names
    rw [List.nil_append, unassigned_cons_of_not (by cases f <;> simp_all [HeadOut.isCancel, HeadOut.isAssign]),
      unassigned_nil (b := b)] at fewer
    have : cancelsIn [] = 0 := rfl
    omega
  | cons g q ih =>
    have hq' : ∀ g ∈ q, g.assigns (hd i) = false := fun x hx => hq x (List.mem_cons_of_mem _ hx)
    refine ⟨fun hc => ?_, ih h.2 hq'⟩
    have := h.1 hc
    have fewer := unassigned_without hi hq' names
    show 1 + cancelsIn (q ++ [f]) + (unassigned (without b i) hd (q ++ [f])).length ≤ 2
    rw [cancelsIn_snoc hf]
    omega

/-- A CANCEL joins for a wafer that is then unbound; a waiting ASSIGN of it leaves with it (R149 rule 2). -/
theorem QueueLaw.cancel (inj : Function.Injective hd) (h : QueueLaw b hd q) (hi : b i = true)
    (two : (slotIds.filter b).length ≤ 2) :
    QueueLaw (without b i) hd ((joinOutbound q (.cancel (hd i))).filter fun f => !f.assigns (hd i)) := by
  unfold joinOutbound
  dsimp only
  by_cases ha : q.any (HeadOut.assigns (hd i)) = true
  · rw [if_pos ha, List.filter_filter]
    simp only [Bool.and_self]
    exact h.unbind inj i
  · have none_named : ∀ g ∈ q, g.assigns (hd i) = false := fun g hg =>
      Bool.eq_false_iff.mpr fun hga => ha (List.any_eq_true.mpr ⟨g, hg, hga⟩)
    have keep : (q ++ [HeadOut.cancel (hd i)]).filter (fun f => !f.assigns (hd i)) = q ++ [.cancel (hd i)] :=
      List.filter_eq_self.mpr fun g hg => by
        rcases List.mem_append.mp hg with hg | hg
        · rw [none_named g hg]; rfl
        · rw [List.mem_singleton.mp hg]; rfl
    have unbound := h.unbind inj i
    have same : q.filter (fun f => !f.assigns (hd i)) = q :=
      List.filter_eq_self.mpr fun g hg => by rw [none_named g hg]; rfl
    rw [same] at unbound
    rw [if_neg ha, keep]
    refine ⟨⟨fun g hg hga => ?_, fun j hj => ?_⟩, ?_, ?_, h.cancels.cancel hi none_named rfl two⟩
    · rcases List.mem_append.mp hg with hg | hg
      · exact unbound.assigned g hg hga
      · rw [List.mem_singleton.mp hg] at hga; cases hga
    · simpa [List.filter_append, HeadOut.assigns] using unbound.once j hj
    · simpa [List.filter_append, HeadOut.isAnswer] using unbound.answers
    · simpa [List.filter_append, HeadOut.isHoldFrame] using unbound.holds

/-- A list with a slot. -/
def withSlot (b : SlotId → Bool) (i : SlotId) (j : SlotId) : Bool := b j || j == i

theorem withSlot_iff {j : SlotId} : withSlot b i j = true ↔ b j = true ∨ j = i := by
  simp [withSlot]

/-- A wafer bound with its ASSIGN at the back is not unannounced. -/
theorem unassigned_withSlot (inj : Function.Injective hd) (hi : b i = false) (ha : f.assigns (hd i) = true) :
    unassigned (withSlot b i) hd (q ++ [f]) = unassigned b hd q := by
  refine List.filter_congr fun j _ => ?_
  rw [List.any_append, List.any_cons, List.any_nil, Bool.or_false]
  by_cases hj : j = i
  · rw [hj, hi, ha]; simp
  · have other : f.assigns (hd j) = false := Bool.eq_false_iff.mpr fun h => hj (inj (HeadOut.eq_of_assigns h ha))
    rw [other, Bool.or_false, withSlot, beq_eq_false_iff_ne.mpr hj, Bool.or_false]

theorem CancelsFit.bind (inj : Function.Injective hd) (h : CancelsFit b hd q) (hi : b i = false)
    (ha : f.assigns (hd i) = true) : CancelsFit (withSlot b i) hd (q ++ [f]) := by
  have hn : f.isCancel = false := by cases f <;> simp_all [HeadOut.assigns, HeadOut.isCancel]
  induction q with
  | nil => exact ⟨fun hc => (Bool.eq_false_iff.mp hn hc).elim, trivial⟩
  | cons g q ih =>
    refine ⟨fun hc => ?_, ih h.2⟩
    have cancels : cancelsIn (q ++ [f]) = cancelsIn q := by
      rw [cancelsIn, List.filter_append, List.filter_cons_of_neg (by rw [hn]; exact Bool.noConfusion), List.filter_nil,
        List.append_nil, cancelsIn]
    show 1 + cancelsIn (q ++ [f]) + (unassigned (withSlot b i) hd (q ++ [f])).length ≤ 2
    rw [cancels, unassigned_withSlot inj hi ha]
    exact h.1 hc

/-- A wafer is bound, and its ASSIGN joins (R23, R31). -/
theorem QueueLaw.bind (inj : Function.Injective hd) (h : QueueLaw b hd q) (hi : b i = false)
    (ha : f.assigns (hd i) = true) : QueueLaw (withSlot b i) hd (q ++ [f]) := by
  have kind : f.isAnswer = false ∧ f.isHoldFrame = false := by
    cases f <;> simp_all [HeadOut.assigns, HeadOut.isAnswer, HeadOut.isHoldFrame]
  refine ⟨⟨fun g hg hga => ?_, fun j hj => ?_⟩, ?_, ?_, h.cancels.bind inj hi ha⟩
  · rcases List.mem_append.mp hg with hg | hg
    · obtain ⟨j, hj, hja⟩ := h.assigned g hg hga
      exact ⟨j, withSlot_iff.mpr (.inl hj), hja⟩
    · exact ⟨i, withSlot_iff.mpr (.inr rfl), List.mem_singleton.mp hg ▸ ha⟩
  · rw [List.filter_append, List.length_append]
    by_cases hji : j = i
    · have unnamed : q.filter (HeadOut.assigns (hd j)) = [] := by
        refine List.filter_eq_nil_iff.mpr fun g hg hga => ?_
        obtain ⟨k, hk, hka⟩ := h.assigned g hg (HeadOut.isAssign_of_assigns hga)
        rw [inj (HeadOut.eq_of_assigns hka hga), hji, hi] at hk
        cases hk
      rw [unnamed]
      exact (Nat.zero_add _).trans_le (List.length_filter_le _ [f])
    · have other : ¬f.assigns (hd j) = true := fun hfa => hji (inj (HeadOut.eq_of_assigns hfa ha))
      rw [List.filter_cons_of_neg other]
      exact h.once j ((withSlot_iff.mp hj).resolve_right hji)
  · simpa [List.filter_append, kind.1] using h.answers
  · simpa [List.filter_append, kind.2] using h.holds

end

/-! ### The law of every queue of the state -/

/-- The wafer in a slot is bound to the port. -/
def State.boundAt (s : State) (p : PortId) (i : SlotId) : Bool := (s.waferAt i).any (·.boundTo p)

theorem mkHandle_slot (i : SlotId) (g : BitVec 4) : (mkHandle i g).toNat % 16 = i.val := by
  have := g.isLt
  have := i.isLt
  simp only [mkHandle, BitVec.toNat_ofNat]
  omega

theorem State.handleOf_injective (s : State) : Function.Injective s.handleOf := by
  intro i j h
  have := congrArg (fun x : Byte => x.toNat % 16) h
  simp only [State.handleOf, mkHandle_slot] at this
  exact Fin.ext this

/-- The law of the outbound queues is that of each of them. -/
theorem State.outboundLaw_iff (s : State) : s.OutboundLaw ↔ ∀ p, QueueLaw (s.boundAt p) s.handleOf (s.port p).outbound := by
  refine forall_congr' fun p => ?_
  have inj := s.handleOf_injective
  dsimp only
  have ahead : ∀ {q : List HeadOut}, AssignLaw (s.boundAt p) s.handleOf q → ∀ n,
      ((q.take n).filter HeadOut.isAssign).length + ((q.drop n).filter HeadOut.isCancel).length +
        (unassigned (s.boundAt p) s.handleOf q).length ≤ 2 ↔
      cancelsIn (q.drop n) + (unassigned (s.boundAt p) s.handleOf (q.drop n)).length ≤ 2 := fun h n => by
    rw [← h.assigns_ahead inj n, cancelsIn]
    omega
  constructor
  · rintro ⟨answers, holds, assigned, once, cancels⟩
    have law : AssignLaw (s.boundAt p) s.handleOf (s.port p).outbound := ⟨assigned, fun i _ => once i⟩
    exact ⟨law, answers, holds, cancelsFit_iff.mpr fun n hn hc => (ahead law n).mp (cancels n hn hc)⟩
  · intro h
    refine ⟨h.answers, h.holds, h.assigned, fun i => ?_, fun n hn hc =>
      (ahead h.toAssignLaw n).mpr (cancelsFit_iff.mp h.cancels n hn hc)⟩
    by_cases hi : s.boundAt p i = true
    · exact h.once i hi
    · have unnamed : (s.port p).outbound.filter (HeadOut.assigns (s.handleOf i)) = [] := by
        refine List.filter_eq_nil_iff.mpr fun f hf ha => hi ?_
        obtain ⟨j, hj, hja⟩ := h.assigned f hf (HeadOut.isAssign_of_assigns ha)
        exact inj (HeadOut.eq_of_assigns ha hja) ▸ hj
      rw [unnamed]
      exact Nat.zero_le _

end Sys2Proof.Machine
end

section
/-! PROOFS. The law of a line without its outbound queue and touchdown list: what no work on wafers changes, and what
each line event, taking and setting keeps of it (R140 to R147, R155, R162, R165, R166; for O11). -/
namespace Sys2Proof.Machine

theorem bump_le (n : Nat) : bump n ≤ countCap := Nat.min_le_right _ _

/-! ### Receivers (R141, R142) -/

/-- A good frame that a receiver's event brings is of 250 characters or fewer. -/
def RxEvent.Fits (e : RxEvent) : Prop := ∀ f, e = .good f → f.payload.length ≤ 250

theorem Receiver.unmarked_law {r : Receiver} (h : r.Law) (v : Byte) : (r.unmarked v).1.Law ∧ (r.unmarked v).2.Fits := by
  have quiet : RxEvent.Fits .quiet := fun f e => RxEvent.noConfusion e
  have discarded : RxEvent.Fits .discarded := fun f e => RxEvent.noConfusion e
  cases r with
  | hunt => exact ⟨trivial, quiet⟩
  | length k =>
    unfold Receiver.unmarked
    dsimp only
    split
    · exact ⟨Nat.zero_le 250, quiet⟩
    · next hv =>
      split
      · next hle => exact ⟨⟨Nat.pos_of_ne_zero fun h0 => hv (BitVec.eq_of_toNat_eq h0), hle⟩, quiet⟩
      · exact ⟨trivial, discarded⟩
  | payload k n got =>
    obtain ⟨hlt, hn⟩ := h
    have len : (got ++ [v]).length = got.length + 1 := List.length_append
    unfold Receiver.unmarked
    dsimp only
    split
    · next full => exact ⟨(full.trans_le hn : (got ++ [v]).length ≤ 250), quiet⟩
    · next part => exact ⟨⟨by omega, hn⟩, quiet⟩
  | check k got =>
    unfold Receiver.unmarked
    dsimp only
    split
    · exact ⟨trivial, fun f e => RxEvent.good.inj e ▸ h⟩
    · exact ⟨trivial, discarded⟩

/-- A character keeps a receiver's law, and a good frame it completes fits. -/
theorem Receiver.char_law {r : Receiver} (h : r.Law) (c : RxChar) : (r.char c).1.Law ∧ (r.char c).2.Fits := by
  have spoiled : RxEvent.Fits (if r.busy then .discarded else .quiet) := fun f e => by
    split at e <;> cases e
  unfold Receiver.char
  split
  · exact ⟨trivial, spoiled⟩
  · split
    · exact ⟨trivial, spoiled⟩
    · exact Receiver.unmarked_law h c.value

/-! ### A port's line (R140 to R147, R155) -/

/-- The ranges that hold of a port whatever its session: its receiver, its counters, its maximum site count. -/
structure Port.Ranges (q : Port) : Prop where
  rx : q.rx.Law
  taken : q.taken ≤ countCap
  discarded : q.discarded ≤ countCap
  overruns : q.overruns ≤ countCap
  sites : q.maxSites ≤ 16

/-- An intake queue and its RDY-out (R145). -/
structure Port.IntakeLaw (q : Port) : Prop where
  room : q.intake.length ≤ 8
  fits : ∀ f ∈ q.intake, f.payload.length ≤ 250
  busy : 6 ≤ q.intake.length → q.rdyOut = false
  ready : q.intake.length ≤ 4 → q.rdyOut = true

theorem Port.IntakeLaw.same {q r : Port} (h : q.IntakeLaw) (hi : r.intake = q.intake := by rfl)
    (hr : r.rdyOut = q.rdyOut := by rfl) : r.IntakeLaw := by
  obtain ⟨room, fits, busy, ready⟩ := h
  rw [← hi] at room fits busy ready
  rw [← hr] at busy ready
  exact ⟨room, fits, busy, ready⟩

/-- A silence timer (R155). -/
structure Port.TimerLaw (q : Port) : Prop where
  runs : q.silence.isSome = true ↔ q.session = .up ∧ q.settings.count ≠ 0
  period : ∀ ms ∈ q.silence, ms ≤ q.settings.periodMs

/-- A port's law but for its outbound queue and its touchdown list. -/
structure Port.LineLaw (q : Port) : Prop extends q.Ranges, q.TimerLaw where
  divisor : q.session = .disabled ↔ q.settings.divisor = 0
  off : q.session = .disabled → q.rx = .hunt ∧ q.intake = [] ∧ q.sending = none ∧ q.rdyOut = false
  intake : q.session ≠ .disabled → q.IntakeLaw
  upSites : q.session = .up → 1 ≤ q.maxSites

theorem Port.law_iff (q : Port) : q.Law ↔ q.LineLaw ∧ (q.session = .disabled → q.outbound = []) ∧
    q.outbound.length ≤ 8 ∧ (q.session ≠ .up → q.touchdowns = []) := by
  constructor
  · rintro ⟨divisor, off, ready, room, out, rx, fits, taken, discarded, overruns, sites, runs, period, upSites, list⟩
    refine ⟨⟨⟨rx, taken, discarded, overruns, sites⟩, ⟨runs, period⟩, divisor, fun hd => ?_, fun hd => ?_,
      fun hu => (upSites hu).1⟩, fun hd => (off hd).2.2.1, out, list⟩
    · obtain ⟨hunt, empty, -, idle, low⟩ := off hd
      exact ⟨hunt, empty, idle, low⟩
    · exact ⟨room, fits, (ready hd).1, (ready hd).2⟩
  · rintro ⟨h, off, out, list⟩
    have queue : q.intake.length ≤ 8 ∧ ∀ f ∈ q.intake, f.payload.length ≤ 250 := by
      by_cases hd : q.session = .disabled
      · rw [(h.off hd).2.1]
        exact ⟨Nat.zero_le 8, fun f hf => (List.not_mem_nil hf).elim⟩
      · exact ⟨(h.intake hd).room, (h.intake hd).fits⟩
    refine ⟨h.divisor, fun hd => ?_, fun hd => ⟨(h.intake hd).busy, (h.intake hd).ready⟩, queue.1, out, h.rx, queue.2,
      h.taken, h.discarded, h.overruns, h.sites, h.runs, h.period, fun hu => ⟨h.upSites hu, h.sites⟩, list⟩
    obtain ⟨hunt, empty, idle, low⟩ := h.off hd
    exact ⟨hunt, empty, off hd, idle, low⟩

section
variable {q : Port}

/-- The law is one of what work on wafers leaves alone. -/
theorem Port.LineLaw.still {r : Port} (h : q.LineLaw) (e : r.still = q.still) : r.LineLaw := by
  have law : q.still.LineLaw := { h with
    intake := fun hd => (h.intake hd).same }
  rw [← e] at law
  exact { law with
    intake := fun hd => (law.intake hd).same }

/-- An intake queue after a frame leaves. -/
theorem Port.IntakeLaw.pop {f : Frame} {rest : List Frame} (h : q.IntakeLaw) (hq : q.intake = f :: rest) :
    (q.popIntake rest).IntakeLaw := by
  obtain ⟨room, fits, busy, ready⟩ := h
  rw [hq, List.length_cons] at room busy ready
  refine ⟨(Nat.lt_of_succ_le room).le, fun g hg => fits g (hq ▸ List.mem_cons_of_mem _ hg), fun h6 => ?_, fun h4 => ?_⟩
  · have : 6 ≤ rest.length := h6
    show rdyAfterLeave rest.length q.rdyOut = false
    rw [rdyAfterLeave, if_neg (by omega), busy (by omega)]
  · exact if_pos h4

/-- An intake queue after a frame joins. -/
theorem Port.IntakeLaw.join {f : Frame} (h : q.IntakeLaw) (room : q.intake.length < 8) (hf : f.payload.length ≤ 250) :
    Port.IntakeLaw
      { q with intake := q.intake ++ [f], rdyOut := rdyAfterJoin (q.intake.length + 1) q.rdyOut } := by
  have len : (q.intake ++ [f]).length = q.intake.length + 1 := List.length_append
  refine ⟨len.trans_le room, fun g hg => ?_, fun h6 => ?_, fun h4 => ?_⟩
  · rcases List.mem_append.mp hg with hg | hg
    · exact h.fits g hg
    · exact List.mem_singleton.mp hg ▸ hf
  · exact if_pos (len ▸ h6)
  · have h4 : q.intake.length + 1 ≤ 4 := len ▸ h4
    show rdyAfterJoin (q.intake.length + 1) q.rdyOut = true
    rw [rdyAfterJoin, if_neg (by omega), h.ready (by omega)]

theorem Port.IntakeLaw.empty {q : Port} (hq : q.intake = []) (hr : q.rdyOut = true) : q.IntakeLaw := by
  refine ⟨?_, ?_, ?_, fun _ => hr⟩
  · rw [hq]; exact Nat.zero_le 8
  · rw [hq]; exact fun f hf => (List.not_mem_nil hf).elim
  · rw [hq]; exact fun h6 => absurd h6 (by decide)

/-- The settings' loaded timer keeps the law of an UP port's timer. -/
theorem Port.TimerLaw.loaded (hs : q.silence = q.settings.loaded) (up : q.session = .up) : q.TimerLaw := by
  unfold LineSettings.loaded at hs
  split at hs
  · next h0 => exact ⟨by rw [hs]; simp [h0], by rw [hs]; exact fun ms hm => (Option.not_mem_none ms hm).elim⟩
  · next h0 => exact ⟨by rw [hs]; exact iff_of_true rfl ⟨up, h0⟩, by rw [hs]; exact fun ms hm => Option.some.inj hm ▸ Nat.le_refl _⟩

theorem Port.TimerLaw.stopped (hs : q.silence = none) (down : q.session ≠ .up) : q.TimerLaw :=
  ⟨by rw [hs]; simp [down], by rw [hs]; exact fun ms hm => (Option.not_mem_none ms hm).elim⟩

/-- A port that is not UP has its timer stopped. -/
theorem Port.TimerLaw.none_of_not_up (h : q.TimerLaw) (down : q.session ≠ .up) : q.silence = none := by
  by_contra hs
  exact down (h.runs.mp (Option.isSome_iff_ne_none.mpr hs)).1

/-- A frame leaves the intake queue. -/
theorem Port.LineLaw.popIntake {f : Frame} {rest : List Frame} (h : q.LineLaw) (on : q.session ≠ .disabled)
    (hq : q.intake = f :: rest) : (q.popIntake rest).LineLaw :=
  { h with
    off := fun hd => (on hd).elim
    intake := fun _ => (h.intake on).pop hq }

/-- A port that takes a frame, reloading its timer or not. -/
theorem Port.LineLaw.takeFrame {f : Frame} {rest : List Frame} (h : q.LineLaw) (on : q.session ≠ .disabled)
    (hq : q.intake = f :: rest) (k : Byte) : (q.takeFrame k rest).LineLaw := by
  have taken : Port.LineLaw { q.popIntake rest with taken := bump q.taken } :=
    { h.popIntake on hq with
      taken := bump_le _
      intake := fun hd => ((h.popIntake on hq).intake hd).same }
  unfold Port.takeFrame
  dsimp only
  split
  · next hc =>
    have timer : Port.TimerLaw
        { q.popIntake rest with taken := bump q.taken, silence := q.settings.loaded } := .loaded rfl hc.1
    exact { taken with
      runs := timer.runs
      period := timer.period
      intake := fun hd => (taken.intake hd).same }
  · exact taken

/-- A receiver's state and its line phase, at a port that is not DISABLED. -/
theorem Port.LineLaw.receive (h : q.LineLaw) (on : q.session ≠ .disabled) {r : Receiver} (hr : r.Law) (l : LinePhase) :
    Port.LineLaw { q with rx := r, line := l } :=
  { h with
    rx := hr
    off := fun hd => (on hd).elim
    intake := fun hd => (h.intake hd).same }

/-- A receiver that returns to HUNT (R143, R162). -/
theorem Port.LineLaw.hunt (h : q.LineLaw) (l : LinePhase) : Port.LineLaw { q with rx := .hunt, line := l } :=
  { h with
    rx := trivial
    off := fun hd => ⟨rfl, (h.off hd).2⟩
    intake := fun hd => (h.intake hd).same }

theorem Port.LineLaw.phase (h : q.LineLaw) (l : LinePhase) : Port.LineLaw { q with line := l } :=
  { h with
    intake := fun hd => (h.intake hd).same }

theorem Port.LineLaw.discard (h : q.LineLaw) : Port.LineLaw { q with discarded := bump q.discarded } :=
  { h with
    discarded := bump_le _
    intake := fun hd => (h.intake hd).same }

theorem Port.LineLaw.overrun (h : q.LineLaw) :
    Port.LineLaw { q with overruns := bump q.overruns, faultReported := true } :=
  { h with
    overruns := bump_le _
    intake := fun hd => (h.intake hd).same }

theorem Port.LineLaw.join {f : Frame} (h : q.LineLaw) (on : q.session ≠ .disabled) (room : q.intake.length < 8)
    (hf : f.payload.length ≤ 250) : Port.LineLaw
      { q with intake := q.intake ++ [f], rdyOut := rdyAfterJoin (q.intake.length + 1) q.rdyOut } :=
  { h with
    off := fun hd => (on hd).elim
    intake := fun _ => (h.intake on).join room hf }

/-- What a transmitter does is nothing to the rest of its line (R146). -/
theorem Port.LineLaw.beginSend (h : q.LineLaw) : q.beginSend.LineLaw := by
  unfold Port.beginSend
  split
  · split
    · next hc => exact { h with
        off := fun hd => (hc.2 hd).elim
        intake := fun hd => (h.intake hd).same }
    · exact h
  · exact h

theorem Port.LineLaw.rdyIn (h : q.LineLaw) (r : Bool) : Port.LineLaw { q with rdyIn := r } :=
  { h with
    intake := fun hd => (h.intake hd).same }

theorem Port.LineLaw.idle (h : q.LineLaw) : Port.LineLaw { q with sending := none } :=
  { h with
    off := fun hd => ⟨(h.off hd).1, (h.off hd).2.1, rfl, (h.off hd).2.2.2⟩
    intake := fun hd => (h.intake hd).same }

theorem Port.LineLaw.finishSend (h : q.LineLaw) (r : Bool) : (q.finishSend r).LineLaw := by
  unfold Port.finishSend
  split
  · exact h
  · exact (h.idle.rdyIn r).beginSend

theorem Port.LineLaw.clearCounters (h : q.LineLaw) : q.clearCounters.LineLaw :=
  { h with
    taken := Nat.zero_le _
    discarded := Nat.zero_le _
    overruns := Nat.zero_le _
    intake := fun hd => (h.intake hd).same }

theorem Port.LineLaw.tick (h : q.LineLaw) : q.tick.LineLaw := by
  have runs : (q.silence.map (· - 1)).isSome = true ↔ q.session = .up ∧ q.settings.count ≠ 0 := by
    rw [Option.isSome_map]
    exact h.runs
  have period : ∀ ms ∈ q.silence.map (· - 1), ms ≤ q.settings.periodMs := fun ms hm => by
    obtain ⟨n, hn, rfl⟩ := Option.map_eq_some_iff.mp hm
    exact (Nat.sub_le n 1).trans (h.period n hn)
  exact { h with
    runs := runs
    period := period
    intake := fun hd => (h.intake hd).same }

/-- A session begins at a port that is not DISABLED (R152). -/
theorem Port.LineLaw.startSession (h : q.LineLaw) (on : q.session ≠ .disabled) (serial : Word32) {n : Nat} (h1 : 1 ≤ n)
    (hn : n ≤ 16) : (q.startSession serial n).LineLaw := by
  have timer : (q.startSession serial n).TimerLaw := .loaded rfl rfl
  exact { h with
    sites := hn
    runs := timer.runs
    period := timer.period
    divisor := iff_of_false Session.noConfusion fun hz => on (h.divisor.mpr hz)
    off := fun hd => Session.noConfusion hd
    intake := fun _ => (h.intake on).same
    upSites := fun _ => h1 }

/-- A port whose session a loss has ended (R158). -/
theorem Port.Ranges.endSession (h : q.Ranges) {cause : LossCause} (hd : cause = .disabled ↔ q.settings.divisor = 0) :
    (q.endSession cause).LineLaw := by
  by_cases hc : cause = .disabled
  · subst hc
    exact { h with
      rx := trivial
      runs := iff_of_false Bool.noConfusion fun hu => Session.noConfusion hu.1
      period := fun ms hm => (Option.not_mem_none ms hm).elim
      divisor := iff_of_true rfl (hd.mp rfl)
      off := fun _ => ⟨rfl, rfl, rfl, rfl⟩
      intake := fun hn => (hn rfl).elim
      upSites := fun hu => Session.noConfusion hu }
  · have lost : q.endSession cause =
        { q with session := .lost cause, silence := none, intake := [], outbound := [], rdyOut := true } := by
      cases cause with
      | disabled => exact (hc rfl).elim
      | _ => rfl
    rw [lost]
    exact { h with
      runs := iff_of_false Bool.noConfusion fun hu => Session.noConfusion hu.1
      period := fun ms hm => (Option.not_mem_none ms hm).elim
      divisor := iff_of_false Session.noConfusion fun hz => hc (hd.mpr hz)
      off := fun hd => Session.noConfusion hd
      intake := fun _ => .empty rfl rfl
      upSites := fun hu => Session.noConfusion hu }

/-- New timer settings and a new divisor at a port that is not UP, its session as the divisor asks (R162). -/
theorem Port.LineLaw.store (h : q.LineLaw) (down : q.session ≠ .up) {l : LineSettings}
    (hd : q.session = .disabled ↔ l.divisor = 0) : ((q.storeTimer l).storeDivisor l.divisor).LineLaw := by
  have timer : ((q.storeTimer l).storeDivisor l.divisor).TimerLaw :=
    .stopped (h.toTimerLaw.none_of_not_up down) down
  exact { h with
    runs := timer.runs
    period := timer.period
    divisor := hd
    intake := fun hd => (h.intake hd).same }

/-- New settings at an UP port, whose timer they load (R162). -/
theorem Port.LineLaw.storeUp (h : q.LineLaw) (up : q.session = .up) {l : LineSettings} (hd : l.divisor ≠ 0) :
    Port.LineLaw { (q.storeTimer l).storeDivisor l.divisor with
      silence := ((q.storeTimer l).storeDivisor l.divisor).settings.loaded } := by
  have timer : Port.TimerLaw { (q.storeTimer l).storeDivisor l.divisor with
      silence := ((q.storeTimer l).storeDivisor l.divisor).settings.loaded } := .loaded rfl up
  have on : q.session ≠ .disabled := fun h => Session.noConfusion (up.symm.trans h)
  exact { h with
    runs := timer.runs
    period := timer.period
    divisor := iff_of_false on hd
    intake := fun hd => (h.intake hd).same }

/-- A port that becomes DISABLED from DOWN or LOST (R162; log 18). -/
theorem Port.LineLaw.disable (h : q.LineLaw) (down : q.session ≠ .up) {l : LineSettings} (hd : l.divisor = 0) :
    ((q.storeTimer l).storeDivisor l.divisor).disable.LineLaw := by
  have timer : ((q.storeTimer l).storeDivisor l.divisor).disable.TimerLaw :=
    .stopped (h.toTimerLaw.none_of_not_up down) Session.noConfusion
  exact { h with
    rx := trivial
    runs := timer.runs
    period := timer.period
    divisor := iff_of_true rfl hd
    off := fun _ => ⟨rfl, rfl, rfl, rfl⟩
    intake := fun hn => (hn rfl).elim
    upSites := fun hu => Session.noConfusion hu }

/-- A DISABLED port that is enabled (R162). -/
theorem Port.LineLaw.enable (h : q.LineLaw) (off : q.session = .disabled) {l : LineSettings} (hd : l.divisor ≠ 0) :
    ((q.storeTimer l).storeDivisor l.divisor).enable.LineLaw := by
  have down : q.session ≠ .up := fun h => Session.noConfusion (off.symm.trans h)
  have timer : ((q.storeTimer l).storeDivisor l.divisor).enable.TimerLaw :=
    .stopped (h.toTimerLaw.none_of_not_up down) Session.noConfusion
  exact { h with
    rx := trivial
    runs := timer.runs
    period := timer.period
    divisor := iff_of_false Session.noConfusion hd
    off := fun hd => Session.noConfusion hd
    intake := fun _ => .empty rfl rfl
    upSites := fun hu => Session.noConfusion hu }

/-- A port at a soft reset (R165). -/
theorem Port.LineLaw.softReset (h : q.LineLaw) : q.softReset.LineLaw := by
  by_cases hd : q.session = .disabled
  · have off : q.softReset.session = .disabled := if_pos hd
    exact {
      rx := trivial
      taken := Nat.zero_le _
      discarded := Nat.zero_le _
      overruns := Nat.zero_le _
      sites := Nat.zero_le _
      runs := iff_of_false Bool.noConfusion fun hu => Session.noConfusion (off.symm.trans hu.1)
      period := fun ms hm => (Option.not_mem_none ms hm).elim
      divisor := iff_of_true off (h.divisor.mp hd)
      off := fun _ => ⟨rfl, rfl, (h.off hd).2.2.1, (if_pos hd).trans (h.off hd).2.2.2⟩
      intake := fun hn => (hn off).elim
      upSites := fun hu => Session.noConfusion (off.symm.trans hu) }
  · have down : q.softReset.session = .down := if_neg hd
    exact {
      rx := trivial
      taken := Nat.zero_le _
      discarded := Nat.zero_le _
      overruns := Nat.zero_le _
      sites := Nat.zero_le _
      runs := iff_of_false Bool.noConfusion fun hu => Session.noConfusion (down.symm.trans hu.1)
      period := fun ms hm => (Option.not_mem_none ms hm).elim
      divisor := iff_of_false (fun h => Session.noConfusion (down.symm.trans h)) fun hz => hd (h.divisor.mpr hz)
      off := fun h => Session.noConfusion (down.symm.trans h)
      intake := fun _ => .empty rfl (if_neg hd)
      upSites := fun hu => Session.noConfusion (down.symm.trans hu) }

end

/-- A port at the end of a power-up or pin reset (R165, R182). -/
theorem Port.lineLaw_start (l : LineSettings) : (Port.start l).LineLaw := by
  have down : (Port.start l).session ≠ .up := by
    unfold Port.start
    split <;> exact Session.noConfusion
  have stopped : (Port.start l).silence = none := by
    unfold Port.start
    split <;> rfl
  have timer : (Port.start l).TimerLaw := .stopped stopped down
  have ranges : (Port.start l).Ranges := by
    unfold Port.start
    split <;> exact ⟨trivial, Nat.zero_le _, Nat.zero_le _, Nat.zero_le _, Nat.zero_le _⟩
  refine ⟨ranges, timer, ?_, ?_, ?_, fun hu => (down hu).elim⟩ <;> unfold Port.start <;> split
  · next hz => exact iff_of_true rfl hz
  · next hz => exact iff_of_false Session.noConfusion hz
  · exact fun _ => ⟨rfl, rfl, rfl, rfl⟩
  · exact fun hd => Session.noConfusion hd
  · exact fun hn => (hn rfl).elim
  · exact fun _ => .empty rfl rfl

/-! ### The host line (R166, R170) -/

/-- The law of the host line. -/
structure HostLine.Law (q : HostLine) : Prop where
  room : q.intake.length ≤ 4
  ready : q.rdyOut = true ↔ q.intake.length ≤ 2
  rx : q.rx.Law
  fits : ∀ f ∈ q.intake, f.payload.length ≤ 250
  discarded : q.discarded ≤ countCap
  overruns : q.overruns ≤ countCap

theorem State.hostLaw_iff (s : State) : s.HostLaw ↔ s.host.Law ∧ s.notices.length ≤ 32 := by
  constructor
  · rintro ⟨room, ready, notices, rx, fits, discarded, overruns⟩
    exact ⟨⟨room, ready, rx, fits, discarded, overruns⟩, notices⟩
  · rintro ⟨h, notices⟩
    exact ⟨h.room, h.ready, notices, h.rx, h.fits, h.discarded, h.overruns⟩

section
variable {q : HostLine}

theorem HostLine.Law.offer (h : q.Law) {f : Frame} (hf : f.payload.length ≤ 250) : (q.offer f).Law := by
  unfold HostLine.offer
  split
  · next room =>
    have len : (q.intake ++ [f]).length = q.intake.length + 1 := List.length_append
    refine { h with room := len.trans_le room, ready := ?_, fits := fun g hg => ?_ }
    · show hostRdyAfterJoin (q.intake.length + 1) q.rdyOut = true ↔ (q.intake ++ [f]).length ≤ 2
      rw [len, hostRdyAfterJoin]
      split
      · exact iff_of_false Bool.noConfusion (by omega)
      · exact iff_of_true (h.ready.mpr (by omega)) (by omega)
    · rcases List.mem_append.mp hg with hg | hg
      · exact h.fits g hg
      · exact List.mem_singleton.mp hg ▸ hf
  · exact { h with overruns := bump_le _ }

theorem HostLine.Law.char (h : q.Law) (c : RxChar) : (q.char c).Law := by
  obtain ⟨law, fits⟩ := Receiver.char_law h.rx c
  have received : ∀ l, HostLine.Law { q with rx := (q.rx.char c).1, line := l } := fun l => { h with rx := law }
  unfold HostLine.char
  split
  · exact h
  · dsimp only
    cases he : (q.rx.char c).2 with
    | quiet => exact received _
    | discarded => exact { received (if c.stopHigh then .high else .low) with discarded := bump_le _ }
    | good f => exact (received _).offer (fits f he)

theorem HostLine.Law.chars (h : q.Law) (cs : List RxChar) : (cs.foldl HostLine.char q).Law := by
  induction cs generalizing q with
  | nil => exact h
  | cons c cs ih => exact ih (h.char c)

theorem HostLine.Law.shortBreak (h : q.Law) : q.shortBreak.Law := by
  have counted : (if q.rx.busy then bump q.discarded else q.discarded) ≤ countCap := by
    split
    · exact bump_le _
    · exact h.discarded
  unfold HostLine.shortBreak
  split
  · exact h
  · exact h
  · exact { h with rx := trivial, discarded := counted }

theorem HostLine.Law.beginReply (h : q.Law) (r : Bool) : (q.beginReply r).Law := by
  unfold HostLine.beginReply
  split <;> exact { h with }

theorem HostLine.Law.finishReply (h : q.Law) : q.finishReply.Law := by
  unfold HostLine.finishReply
  split
  · split
    · exact { h with }
    · exact h
  · exact h

theorem HostLine.Law.send (h : q.Law) (e : ReplySend) : (q.send e).Law := by
  cases e with
  | started r => exact h.beginReply r
  | finished => exact h.finishReply
  | whole r => exact (h.beginReply r).finishReply

end

theorem State.hostLaw_popHost {s : State} (h : s.host.Law) {f : Frame} {rest : List Frame}
    (hq : s.host.intake = f :: rest) : (s.popHost rest).host.Law := by
  obtain ⟨room, ready, rx, fits, discarded, overruns⟩ := h
  rw [hq, List.length_cons] at room ready
  refine ⟨(Nat.le_of_succ_le room : rest.length ≤ 4), ?_, rx, fun g hg => fits g (hq ▸ List.mem_cons_of_mem _ hg), discarded, overruns⟩
  show hostRdyAfterLeave rest.length s.host.rdyOut = true ↔ rest.length ≤ 2
  rw [hostRdyAfterLeave]
  split
  · next h2 => exact iff_of_true rfl h2
  · next h2 => exact iff_of_false (fun hr => h2 (Nat.le_of_succ_le (ready.mp hr))) h2

end Sys2Proof.Machine
end

section
/-! PROOFS. The changes that no touchdown list and no binding of a wafer sees: outside the HOLD and PROCEED frames the
queues stay, and every line keeps its law (for O9, O11, O12). -/
namespace Sys2Proof.Machine

/-- From one list of outbound frames to another only HOLD and PROCEED frames join and leave, one staying at most. -/
def Requeued (q r : List HeadOut) : Prop :=
  r.filter (fun f => !f.isHoldFrame) = q.filter (fun f => !f.isHoldFrame) ∧
    ((q.filter HeadOut.isHoldFrame).length ≤ 1 → (r.filter HeadOut.isHoldFrame).length ≤ 1)

theorem Requeued.refl (q : List HeadOut) : Requeued q q := ⟨rfl, id⟩

theorem Requeued.trans {q r o : List HeadOut} (h : Requeued q r) (k : Requeued r o) : Requeued q o :=
  ⟨k.1.trans h.1, k.2 ∘ h.2⟩

theorem Requeued.of_eq {q r : List HeadOut} (h : r = q) : Requeued q r := h ▸ .refl q

/-- A HOLD or PROCEED joins (R149 rule 1). -/
theorem Requeued.join (q : List HeadOut) {f : HeadOut} (hf : f.isHoldFrame = true) : Requeued q (joinOutbound q f) := by
  have joined : joinOutbound q f = q.filter (fun g => !g.isHoldFrame) ++ [f] := by
    cases f with
    | hold _ _ => rfl
    | proceed _ => rfl
    | _ => cases hf
  have others : (q.filter fun g => !g.isHoldFrame).filter HeadOut.isHoldFrame = [] :=
    List.filter_eq_nil_iff.mpr fun g hg h => by
      have := (List.mem_filter.mp hg).2
      rw [h] at this
      cases this
  rw [joined]
  refine ⟨?_, fun _ => ?_⟩
  · rw [List.filter_append, List.filter_filter, List.filter_cons_of_neg (by rw [hf]; exact Bool.noConfusion),
      List.filter_nil, List.append_nil]
    simp only [Bool.and_self]
  · rw [List.filter_append, others, List.nil_append]
    exact List.length_filter_le _ [f]

/-- The notice queue holds no more than its capacity (R170). -/
def State.NoticesFit (s : State) : Prop := s.notices.length ≤ 32

theorem State.NoticesFit.notify {s : State} (h : s.NoticesFit) (n : Notice) : (s.notify n).NoticesFit := by
  unfold State.notify
  split
  · next room => exact (List.length_append (as := s.notices) (bs := [n])).trans_le room
  · exact h

theorem State.NoticesFit.withPort {s : State} (h : s.NoticesFit) (p : PortId) (f : Port → Port) :
    (s.withPort p f).NoticesFit := h

theorem State.NoticesFit.withWafer {s : State} (h : s.NoticesFit) (i : SlotId) (f : Wafer → Wafer) :
    (s.withWafer i f).NoticesFit := h

/-- A change that no touchdown list and no binding of a wafer sees. -/
structure State.Quiet (s t : State) : Prop where
  bins : t.bins = s.bins
  generation : ∀ i, (tabGet t.slots i).generation = (tabGet s.slots i).generation
  grid : ∀ i, (t.waferAt i).map (fun w => (w.rows, w.columns)) = (s.waferAt i).map fun w => (w.rows, w.columns)
  binding : ∀ i, (t.waferAt i).map Wafer.binding = (s.waferAt i).map Wafer.binding
  session : ∀ p, (t.port p).session = (s.port p).session
  touchdowns : ∀ p, (t.port p).touchdowns = (s.port p).touchdowns
  outbound : ∀ p, Requeued (s.port p).outbound (t.port p).outbound
  still : ∀ p, (s.port p).session ≠ .up → (t.port p).outbound = (s.port p).outbound
  line : ∀ p, (s.port p).LineLaw → (t.port p).LineLaw
  notices : s.NoticesFit → t.NoticesFit
  host : t.host = s.host

theorem State.Quiet.refl (s : State) : s.Quiet s :=
  ⟨rfl, fun _ => rfl, fun _ => rfl, fun _ => rfl, fun _ => rfl, fun _ => rfl, fun _ => .refl _, fun _ _ => rfl,
    fun _ h => h, id, rfl⟩

theorem State.Quiet.trans {s t u : State} (h : s.Quiet t) (k : t.Quiet u) : s.Quiet u :=
  ⟨k.bins.trans h.bins, fun i => (k.generation i).trans (h.generation i), fun i => (k.grid i).trans (h.grid i),
    fun i => (k.binding i).trans (h.binding i), fun p => (k.session p).trans (h.session p),
    fun p => (k.touchdowns p).trans (h.touchdowns p), fun p => (h.outbound p).trans (k.outbound p),
    fun p hd => (k.still p (by rw [h.session p]; exact hd)).trans (h.still p hd), fun p hl => k.line p (h.line p hl),
    k.notices ∘ h.notices, k.host.trans h.host⟩

theorem State.Quiet.foldl {α : Type} {f : State → α → State} (hf : ∀ (s : State) x, s.Quiet (f s x)) (xs : List α) :
    ∀ s : State, s.Quiet (xs.foldl f s) := by
  induction xs with
  | nil => exact fun s => .refl s
  | cons x xs ih => exact fun s => (hf s x).trans (ih (f s x))

/-! ### What a quiet change leaves -/

section
variable {s t : State}

theorem State.Quiet.waferAt (h : s.Quiet t) {i : SlotId} {w : Wafer} (hw : s.waferAt i = some w) :
    ∃ v, t.waferAt i = some v ∧ v.binding = w.binding ∧ v.rows = w.rows ∧ v.columns = w.columns := by
  have binding := h.binding i
  have grid := h.grid i
  rw [hw] at binding grid
  obtain ⟨v, hv, hb⟩ := Option.map_eq_some_iff.mp binding
  rw [hv] at grid
  obtain ⟨hr, hc⟩ := Prod.mk.inj (Option.some.inj grid)
  exact ⟨v, hv, hb, hr, hc⟩

theorem State.Quiet.waferAt_back (h : s.Quiet t) {i : SlotId} {v : Wafer} (hv : t.waferAt i = some v) :
    ∃ w, s.waferAt i = some w ∧ v.binding = w.binding := by
  have binding := h.binding i
  rw [hv] at binding
  obtain ⟨w, hw, hb⟩ := Option.map_eq_some_iff.mp binding.symm
  exact ⟨w, hw, hb.symm⟩

theorem State.Quiet.handleOf (h : s.Quiet t) (i : SlotId) : t.handleOf i = s.handleOf i :=
  congrArg (mkHandle i) (h.generation i)

theorem State.Quiet.resolve (h : s.Quiet t) (x : Byte) : t.resolve x = s.resolve x := by
  have occupied : ∀ i, (t.waferAt i).isSome = (s.waferAt i).isSome := fun i => by
    have := congrArg Option.isSome (h.binding i)
    simpa using this
  unfold State.resolve
  split
  · simp only [occupied, h.generation]
  · rfl

theorem State.Quiet.binClass (h : s.Quiet t) : t.binClass = s.binClass := by
  unfold State.binClass
  rw [h.bins]

/-! ### Quiet updates -/

/-- A change of what neither the slots, the ports nor the bin table hold. -/
theorem State.Quiet.aside {u : State} (h : s.Quiet t) (hb : u.bins = t.bins := by rfl) (hs : u.slots = t.slots := by rfl)
    (hp : u.ports = t.ports := by rfl) (hn : t.NoticesFit → u.NoticesFit := by exact id)
    (hh : u.host = t.host := by rfl) : s.Quiet u := by
  have port : ∀ p, u.port p = t.port p := fun p => congrArg (tabGet · p) hp
  have wafer : ∀ i, u.waferAt i = t.waferAt i := fun i => congrArg (fun v => (tabGet v i).wafer) hs
  exact h.trans ⟨hb, fun i => by rw [hs], fun i => by rw [wafer], fun i => by rw [wafer], fun p => by rw [port],
    fun p => by rw [port], fun p => .of_eq (by rw [port]), fun p _ => by rw [port], fun p hl => by rw [port]; exact hl, hn,
    hh⟩

theorem State.Quiet.notify (h : s.Quiet t) (n : Notice) : s.Quiet (t.notify n) :=
  h.aside (t.notify_bins n) (t.notify_slots n) (t.notify_ports n) (fun hn => hn.notify n)
    (t.notify_host n)

theorem State.Quiet.settleLamps (h : s.Quiet t) : s.Quiet t.settleLamps := h.aside

/-- A change of one port that keeps its session, its outbound queue and its list. -/
theorem State.Quiet.withPort (h : s.Quiet t) (p : PortId) (f : Port → Port)
    (hl : (t.port p).LineLaw → (f (t.port p)).LineLaw)
    (hs : (f (t.port p)).session = (t.port p).session := by rfl)
    (ho : Requeued (t.port p).outbound (f (t.port p)).outbound := by exact .refl _)
    (hd : (t.port p).session ≠ .up → (f (t.port p)).outbound = (t.port p).outbound := by exact fun _ => rfl)
    (ht : (f (t.port p)).touchdowns = (t.port p).touchdowns := by rfl) : s.Quiet (t.withPort p f) := by
  have port : ∀ P : Port → Port → Prop, (∀ q, P q q) → P (t.port p) (f (t.port p)) →
      ∀ q, P (t.port q) ((t.withPort p f).port q) := fun P same changed q => by
    by_cases hq : q = p
    · rw [hq, State.port_withPort_self]
      exact changed
    · rw [State.port_withPort_ne _ _ hq]
      exact same _
  exact h.trans ⟨rfl, fun _ => rfl, fun _ => rfl, fun _ => rfl, port (fun q r => r.session = q.session) (fun _ => rfl) hs,
    port (fun q r => r.touchdowns = q.touchdowns) (fun _ => rfl) ht,
    port (fun q r => Requeued q.outbound r.outbound) (fun _ => .refl _) ho,
    port (fun q r => q.session ≠ .up → r.outbound = q.outbound) (fun _ _ => rfl) hd,
    port (fun q r => q.LineLaw → r.LineLaw) (fun _ => id) hl, id, rfl⟩

/-- A change of a record that keeps its binding and its grid. -/
theorem State.Quiet.withWafer (h : s.Quiet t) (i : SlotId) (f : Wafer → Wafer)
    (hb : ∀ w, (f w).binding = w.binding := by intro _; rfl)
    (hg : ∀ w, ((f w).rows, (f w).columns) = (w.rows, w.columns) := by intro _; rfl) : s.Quiet (t.withWafer i f) := by
  have wafer : ∀ {β : Type} (g : Wafer → β), (∀ w, g (f w) = g w) →
      ∀ j, ((t.withWafer i f).waferAt j).map g = (t.waferAt j).map g := fun g hg j => by
    by_cases hj : j = i
    · rw [hj, State.waferAt_withWafer_self, Option.map_map]
      exact congrArg (Option.map · _) (funext hg)
    · rw [State.waferAt_withWafer_ne _ _ hj]
  exact h.trans ⟨rfl, fun j => t.generation_withWafer i j f, wafer _ hg, wafer _ hb, fun _ => rfl, fun _ => rfl,
    fun _ => .refl _, fun _ _ => rfl, fun _ => id, id, rfl⟩

theorem State.Quiet.queueHold (h : s.Quiet t) (p : PortId) {f : HeadOut} (hf : f.isHoldFrame = true) :
    s.Quiet (t.queueOutIfUp p f) := by
  unfold State.queueOutIfUp
  split
  · next up => exact h.withPort p _ (fun hl => hl.still rfl) rfl (.join _ hf) fun down => (down up).elim
  · exact h

/-! ### Work on a wafer -/

theorem State.Quiet.judgeHeld (h : s.Quiet t) (p : PortId) (x : Byte) (src : Option Source) :
    s.Quiet (t.judgeHeld p x src) := by
  unfold State.judgeHeld
  split
  · exact h
  · refine .settleLamps ?_
    split
    · exact .notify ((h.queueHold p rfl).withPort p _ fun hl => hl.still rfl) _
    · exact .notify ((h.queueHold p rfl).withPort p _ fun hl => hl.still rfl) _

theorem State.Quiet.judgeBound (h : s.Quiet t) (p : Option PortId) (x : Byte) (src : Option Source) :
    s.Quiet (t.judgeBound p x src) := by
  cases p with
  | none => exact h
  | some p => exact h.judgeHeld p x src

theorem State.Quiet.alarmEffects (h : s.Quiet t) (i : SlotId) (p : Option PortId) (x : Byte) (src : Source)
    (e : AlarmEvent) : s.Quiet (t.alarmEffects i p x src e) := by
  unfold State.alarmEffects
  split
  · exact h
  · exact .notify (h.withWafer i _) _
  · exact .judgeBound (.notify (h.withWafer i _) _) _ _ _
  · exact .judgeBound (h.notify _) _ _ _
  · exact h.notify _

theorem State.Quiet.giveVerdict (h : s.Quiet t) (i : SlotId) (sv : Source × Verdict) : s.Quiet (t.giveVerdict i sv) := by
  unfold State.giveVerdict
  split
  · exact h
  · exact .settleLamps (.alarmEffects (h.withWafer i _) _ _ _ _ _)

theorem State.Quiet.latch (h : s.Quiet t) (i : SlotId) : s.Quiet (t.latch i) := by
  unfold State.latch
  split
  · exact h
  · split
    · exact h
    · dsimp only
      split
      · exact .settleLamps (.judgeBound (h.withWafer i _) _ _ _)
      · exact .settleLamps (h.withWafer i _)

theorem State.Quiet.closeWindow (h : s.Quiet t) (i : SlotId) : s.Quiet (t.closeWindow i) := by
  unfold State.closeWindow
  split
  · exact h
  · exact .withWafer (.latch (h.trans (.foldl (fun u x => (State.Quiet.refl u).giveVerdict i x) _ t)) i) _ _

theorem State.Quiet.feedResult (h : s.Quiet t) (i : SlotId) (retest : Bool) (n : SiteId) (r : Bin) :
    s.Quiet (t.feedResult i retest n r) := by
  have ran : s.Quiet ((t.withWafer i fun w => w.feed retest n r (t.binClass r)).runDetect i) := by
    unfold State.runDetect
    split
    · exact (h.withWafer i _).giveVerdict i _
    · exact h.withWafer i _
  unfold State.feedResult State.closeIfFull
  split
  · exact ran.closeWindow i
  · exact ran

theorem Wafer.binding_retest (w : Wafer) (cls : Bin → BinClass) (b k : Bin) : (w.retest cls b k).binding = w.binding := by
  unfold Wafer.retest
  split
  · rfl
  · dsimp only
    split <;> rfl

theorem State.Quiet.applySite (h : s.Quiet t) (i : SlotId) (d : SiteEntry) : s.Quiet (t.applySite i d) := by
  unfold State.applySite
  split
  · exact h
  · split
    · exact h.withWafer i _
    · split
      · exact h.withWafer i _
      · dsimp only
        split
        · exact .feedResult (h.aside.withWafer i _) _ _ _ _
        · split
          · exact h.withWafer i _
          · refine .feedResult (h.aside.withWafer i _ (fun w => w.binding_retest _ _ _) fun w => ?_) _ _ _ _
            exact congrArg (fun x => (x.2.1 : Nat × Nat)) (Wafer.place_retest w _ _ _)

theorem State.Quiet.applyEntry (h : s.Quiet t) (e : Entry) : s.Quiet (t.applyEntry e) := by
  unfold State.applyEntry
  split
  · exact h
  · exact .withWafer (h.trans (.foldl (fun u d => (State.Quiet.refl u).applySite _ d) _ t)) _ _

theorem State.NoticesFit.withLots (h : t.NoticesFit) (ls : Vector (Option Lot) 4) :
    State.NoticesFit { t with lots := ls } := h

theorem State.NoticesFit.rollUp (h : t.NoticesFit) (w : Wafer) (p : Option PortId) (x : Byte) :
    (t.rollUp w p x).NoticesFit := by
  unfold State.rollUp
  split
  · exact h
  · split
    · exact h
    · dsimp only
      split
      · exact h
      · split
        · exact (h.withLots _).notify _
        · exact h

theorem State.NoticesFit.countAbandoned (h : t.NoticesFit) (w : Wafer) : (t.countAbandoned w).NoticesFit := by
  unfold State.countAbandoned
  split <;> exact h

theorem State.Quiet.rollUp (h : s.Quiet t) (w : Wafer) (p : Option PortId) (x : Byte) : s.Quiet (t.rollUp w p x) :=
  h.aside ((State.WorkFrame.refl t).rollUp w p x).bins (t.slots_rollUp w p x) (t.ports_rollUp w p x)
    (fun hn => hn.rollUp w p x) ((State.WorkFrame.refl t).rollUp w p x).host

theorem State.Quiet.countAbandoned (h : s.Quiet t) (w : Wafer) : s.Quiet (t.countAbandoned w) := by
  obtain ⟨slots, ports, -⟩ := t.countAbandoned_rest w
  exact h.aside ((State.WorkFrame.refl t).countAbandoned w).bins slots ports (fun hn => hn.countAbandoned w)
    ((State.WorkFrame.refl t).countAbandoned w).host

/-! ### Line events -/

theorem Port.ready_eq_some {q : Port} {f : Frame} {rest : List Frame} (h : q.ready = some (f, rest)) :
    q.intake = f :: rest ∧ q.session ≠ .disabled ∧ q.outbound.length ≤ 2 := by
  unfold Port.ready at h
  split at h
  · next hq =>
    split at h
    · next hc =>
      obtain ⟨rfl, rfl⟩ := Prod.mk.inj (Option.some.inj h)
      exact ⟨hq, hc.2, hc.1⟩
    · cases h
  · cases h

theorem Port.takeFrame_outbound (q : Port) (k : Byte) (rest : List Frame) :
    (q.takeFrame k rest).outbound = q.outbound := by
  unfold Port.takeFrame
  dsimp only
  split <;> rfl

theorem State.Quiet.takeFrame (h : s.Quiet t) {p : PortId} {f : Frame} {rest : List Frame}
    (hr : (t.port p).ready = some (f, rest)) (k : Byte) : s.Quiet (t.withPort p fun q => q.takeFrame k rest) := by
  obtain ⟨hq, on, -⟩ := Port.ready_eq_some hr
  have out := (t.port p).takeFrame_outbound k rest
  exact h.withPort p _ (fun hl => hl.takeFrame on hq k) ((t.port p).takeFrame_session k rest) (.of_eq out) (fun _ => out)
    ((t.port p).takeFrame_touchdowns k rest)

theorem State.Quiet.nonHeadFrame (h : s.Quiet t) (p : PortId) : s.Quiet (t.nonHeadFrame p) := by
  unfold State.nonHeadFrame
  split
  · next f rest hr =>
    obtain ⟨hq, on, -⟩ := Port.ready_eq_some hr
    split
    · exact h
    · exact h.withPort p _ fun hl => (hl.popIntake on hq).discard
  · exact h

theorem State.Quiet.countDiscard (h : s.Quiet t) (p : PortId) : s.Quiet (t.countDiscard p) :=
  h.withPort p _ fun hl => hl.discard

theorem State.Quiet.offer (h : s.Quiet t) {p : PortId} (on : (t.port p).session ≠ .disabled) {f : Frame}
    (hf : f.payload.length ≤ 250) : s.Quiet (t.offer p f) := by
  unfold State.offer
  dsimp only
  split
  · next room => exact h.withPort p _ fun hl => hl.join on room hf
  · split
    · exact h.withPort p _ fun hl => hl.overrun
    · exact .notify (h.withPort p _ fun hl => hl.overrun) _

/-- A character is quiet at a port that keeps its law. -/
theorem State.Quiet.headChar {p : PortId} (h : s.Quiet t) (hl : (s.port p).LineLaw) (c : RxChar) :
    s.Quiet (State.headChar p t c) := by
  unfold State.headChar
  dsimp only
  split
  · exact h
  · next hn =>
    have on : (t.port p).session ≠ .disabled := fun hd => hn (.inl hd)
    obtain ⟨law, fits⟩ := Receiver.char_law (h.line p hl).rx c
    have received : s.Quiet (t.withPort p fun q =>
        { q with rx := ((t.port p).rx.char c).1, line := if c.stopHigh then .high else .low }) :=
      h.withPort p _ fun hl => hl.receive on law _
    cases he : ((t.port p).rx.char c).2 with
    | quiet => exact received
    | discarded => exact received.countDiscard p
    | good f => exact received.offer (by rw [State.port_withPort_self]; exact on) (fits f he)

theorem State.Quiet.headChars {p : PortId} (cs : List RxChar) : ∀ {s t : State}, s.Quiet t → (s.port p).LineLaw →
    s.Quiet (cs.foldl (State.headChar p) t) := by
  induction cs with
  | nil => exact fun h _ => h
  | cons c cs ih => exact fun h hl => ih (h.headChar hl c) hl

theorem State.Quiet.shortBreak (h : s.Quiet t) (p : PortId) : s.Quiet (t.shortBreak p) := by
  have broken : s.Quiet (t.withPort p fun q => { q with rx := .hunt, line := .shortTaken }) :=
    h.withPort p _ fun hl => hl.hunt _
  unfold State.shortBreak
  dsimp only
  split
  · exact h
  · exact h
  · split
    · exact broken.countDiscard p
    · exact broken

theorem State.Quiet.tick (s : State) : s.Quiet s.tick := by
  have port : ∀ p, s.tick.port p = (s.port p).tick := fun p => tabGet_tabMap _ _ _
  exact ⟨rfl, fun _ => rfl, fun _ => rfl, fun _ => rfl, fun p => by rw [port]; rfl, fun p => by rw [port]; rfl,
    fun p => .of_eq (by rw [port]; rfl), fun p _ => by rw [port]; rfl, fun p hl => by rw [port]; exact hl.tick, id, rfl⟩

end

end Sys2Proof.Machine
end

section
/-! PROOFS. The law of the heads as one: which wafer is bound where, what waits for its head, and what its head's list
names; and the changes of one wafer and one port that keep it (R23, R25, R28, R40, R42, R49, R149; for O9, O11, O12). -/
namespace Sys2Proof.Machine

/-! ### Bound wafers (R28, R40) -/

theorem WaferState.isBound_iff (st : WaferState) : st.isBound = true ↔ st = .active ∨ st = .draining ∨ st = .suspended := by
  cases st <;> simp [WaferState.isBound]

theorem State.boundAt_iff {s : State} {p : PortId} {i : SlotId} : s.boundAt p i = true ↔
    ∃ w, s.waferAt i = some w ∧ w.state.isBound = true ∧ w.boundPort = some p := by
  simp [State.boundAt, Option.any_eq_true, Wafer.boundTo]

theorem State.boundAt_eq_false {s : State} {p : PortId} {i : SlotId}
    (h : ∀ w, s.waferAt i = some w → w.state.isBound = true → w.boundPort ≠ some p) : s.boundAt p i = false :=
  Bool.eq_false_iff.mpr fun hb => by
    obtain ⟨w, hw, hbound, hp⟩ := State.boundAt_iff.mp hb
    exact h w hw hbound hp

theorem State.boundAt_congr {s t : State} {i : SlotId}
    (h : (t.waferAt i).map Wafer.binding = (s.waferAt i).map Wafer.binding) (p : PortId) : t.boundAt p i = s.boundAt p i := by
  have any : ∀ o : Option Wafer,
      o.any (·.boundTo p) = (o.map Wafer.binding).any fun b => b.1.isBound && b.2 == some p := fun o => by
    cases o <;> rfl
  rw [State.boundAt, State.boundAt, any, any, h]

section
variable {s t : State} {p : PortId}

theorem State.BindingLaw.bound_iff (h : s.BindingLaw) {i : SlotId} {w : Wafer} (hw : s.waferAt i = some w) :
    w.state.isBound = true ↔ ∃ p, w.boundPort = some p := by
  rw [h.1 i w hw, Option.isSome_iff_exists]

theorem State.BindingLaw.isBound (h : s.BindingLaw) {i : SlotId} {w : Wafer} (hw : s.waferAt i = some w)
    (hp : w.boundPort = some p) : w.state.isBound = true := (h.bound_iff hw).mpr ⟨p, hp⟩

theorem State.BindingLaw.up (h : s.BindingLaw) {i : SlotId} {w : Wafer} (hw : s.waferAt i = some w)
    (hp : w.boundPort = some p) (hs : w.state ≠ .suspended) : (s.port p).session = .up := h.2.1 i w hw p hp hs

/-- Two wafers of the same of the two kinds of which a port has at most one (R40). -/
def Wafer.rivals (v w : Wafer) : Prop := v.live ∧ w.live ∨ v.state = .draining ∧ w.state = .draining

theorem State.BindingLaw.unique (h : s.BindingLaw) {i j : SlotId} {v w : Wafer} (hv : s.waferAt i = some v)
    (hw : s.waferAt j = some w) (hp : v.boundPort = some p) (hq : w.boundPort = some p) (hr : v.rivals w) : i = j :=
  h.2.2 i j v hv w hw (hp.trans hq.symm) (by rw [hp]; rfl) hr

theorem Wafer.rivals_congr {v w v' w' : Wafer} (hv : v'.state = v.state) (hw : w'.state = w.state) :
    v'.rivals w' ↔ v.rivals w := by
  unfold Wafer.rivals Wafer.live
  rw [hv, hw]

/-- A list without repetition whose members are all equal has one at most. -/
theorem length_le_one {α : Type} {l : List α} (nodup : l.Nodup) (h : ∀ a ∈ l, ∀ b ∈ l, a = b) : l.length ≤ 1 := by
  match l with
  | [] => exact Nat.zero_le 1
  | [_] => exact Nat.le_refl 1
  | a :: b :: l =>
    have same : a = b := h a List.mem_cons_self b (List.mem_cons_of_mem _ List.mem_cons_self)
    exact (List.nodup_cons.mp nodup).1 (same ▸ List.mem_cons_self) |>.elim

/-- The wafer in a slot is DRAINING. -/
def State.drainingAt (s : State) (i : SlotId) : Bool := (s.waferAt i).any (·.state == .draining)

/-- Two bound wafers of which both or neither is DRAINING are rivals. -/
theorem State.rivals_of_drainingAt {i j : SlotId} {v w : Wafer} (hv : s.waferAt i = some v) (hw : s.waferAt j = some w)
    (bv : v.state.isBound = true) (bw : w.state.isBound = true) (h : s.drainingAt i = s.drainingAt j) : v.rivals w := by
  unfold State.drainingAt at h
  rw [hv, hw] at h
  unfold Wafer.rivals Wafer.live
  rcases (WaferState.isBound_iff _).mp bv with e | e | e <;> rcases (WaferState.isBound_iff _).mp bw with f | f | f <;>
    simp_all

/-- A port has no more than two wafers bound: one ACTIVE or SUSPENDED and one DRAINING (R40). -/
theorem State.BindingLaw.two_bound (h : s.BindingLaw) (p : PortId) : (slotIds.filter (s.boundAt p)).length ≤ 2 := by
  have one : ∀ g : SlotId → Bool, (∀ i j, g i = true → g j = true → s.drainingAt i = s.drainingAt j) →
      ((slotIds.filter (s.boundAt p)).filter g).length ≤ 1 := fun g hg => by
    refine length_le_one ((slotIds_nodup.filter _).filter _) fun i hi j hj => ?_
    obtain ⟨hi, gi⟩ := List.mem_filter.mp hi
    obtain ⟨hj, gj⟩ := List.mem_filter.mp hj
    obtain ⟨v, hv, bv, pv⟩ := State.boundAt_iff.mp (List.mem_filter.mp hi).2
    obtain ⟨w, hw, bw, pw⟩ := State.boundAt_iff.mp (List.mem_filter.mp hj).2
    exact h.unique hv hw pv pw (State.rivals_of_drainingAt hv hw bv bw (hg i j gi gj))
  have draining := one s.drainingAt fun i j hi hj => hi.trans hj.symm
  have live := one (fun i => !s.drainingAt i) fun i j hi hj => Bool.not_inj (hi.trans hj.symm)
  have parts := (slotIds.filter (s.boundAt p)).length_eq_length_filter_add s.drainingAt
  omega

/-- One wafer changes its binding, and no other. -/
theorem State.BindingLaw.change (h : s.BindingLaw) (i : SlotId)
    (others : ∀ j, j ≠ i → (t.waferAt j).map Wafer.binding = (s.waferAt j).map Wafer.binding)
    (sessions : ∀ q, (s.port q).session = .up → (t.port q).session = .up)
    (hi : ∀ v, t.waferAt i = some v → v.state.isBound = v.boundPort.isSome ∧ ∀ q, v.boundPort = some q →
      (v.state ≠ .suspended → (t.port q).session = .up) ∧
      ∀ j, j ≠ i → ∀ w, s.waferAt j = some w → w.boundPort = some q → ¬v.rivals w) : t.BindingLaw := by
  have back : ∀ j v, j ≠ i → t.waferAt j = some v →
      ∃ w, s.waferAt j = some w ∧ v.state = w.state ∧ v.boundPort = w.boundPort := fun j v hj hv => by
    have binding := others j hj
    rw [hv] at binding
    obtain ⟨w, hw, hb⟩ := Option.map_eq_some_iff.mp binding.symm
    obtain ⟨hs, hp⟩ := Prod.mk.inj hb
    exact ⟨w, hw, hs.symm, hp.symm⟩
  -- the wafer changed has no rival at its port
  have alone : ∀ j v w q, t.waferAt i = some v → t.waferAt j = some w → v.boundPort = some q → w.boundPort = some q →
      v.rivals w → i = j := fun j v w q hv hw pv pw hr => by
    by_contra hj
    obtain ⟨w', hw', hs, hp⟩ := back j w (Ne.symm hj) hw
    exact ((hi v hv).2 q pv).2 j (Ne.symm hj) w' hw' (hp ▸ pw) ((Wafer.rivals_congr rfl hs).mp hr)
  refine ⟨fun j v hv => ?_, fun j v hv q hq hs => ?_, fun j k v hv w hw hvw hsome hr => ?_⟩
  · by_cases hj : j = i
    · exact (hi v (hj ▸ hv)).1
    · obtain ⟨w, hw, hs, hp⟩ := back j v hj hv
      rw [hs, hp]
      exact h.1 j w hw
  · by_cases hj : j = i
    · exact ((hi v (hj ▸ hv)).2 q hq).1 hs
    · obtain ⟨w, hw, hst, hp⟩ := back j v hj hv
      exact sessions q (h.2.1 j w hw q (hp ▸ hq) (hst ▸ hs))
  · obtain ⟨q, pv⟩ := Option.isSome_iff_exists.mp hsome
    have pw : w.boundPort = some q := hvw.symm.trans pv
    by_cases hj : j = i
    · exact hj.trans (alone k v w q (hj ▸ hv) hw pv pw hr)
    · by_cases hk : k = i
      · have swapped : w.rivals v := hr.elim (fun ⟨a, b⟩ => .inl ⟨b, a⟩) fun ⟨a, b⟩ => .inr ⟨b, a⟩
        exact ((alone j w v q (hk ▸ hw) hv pw pv swapped).symm).trans hk.symm
      · obtain ⟨v', hv', hsv, hpv⟩ := back j v hj hv
        obtain ⟨w', hw', hsw, hpw⟩ := back k w hk hw
        exact h.unique hv' hw' (hpv ▸ pv) (hpw ▸ pw) ((Wafer.rivals_congr hsv hsw).mp hr)

/-- No wafer changes its binding, and no session ends. -/
theorem State.BindingLaw.keep (h : s.BindingLaw)
    (same : ∀ j, (t.waferAt j).map Wafer.binding = (s.waferAt j).map Wafer.binding)
    (sessions : ∀ q, (s.port q).session = .up → (t.port q).session = .up) : t.BindingLaw := by
  refine h.change 0 (fun j _ => same j) sessions fun v hv => ?_
  have binding := same 0
  rw [hv] at binding
  obtain ⟨w, hw, hb⟩ := Option.map_eq_some_iff.mp binding.symm
  obtain ⟨hs, hp⟩ := Prod.mk.inj hb
  refine ⟨by rw [← hs, ← hp]; exact h.1 0 w hw, fun q hq => ⟨fun hsus => ?_, fun j hj w' hw' hq' hr => ?_⟩⟩
  · exact sessions q (h.up hw (hp.trans hq) (hs ▸ hsus))
  · exact hj (h.unique hw hw' (hp.trans hq) hq' ((Wafer.rivals_congr hs.symm rfl).mp hr)).symm

/-! ### Entries (R42, R49) -/

/-- The wafer an entry of a list names. -/
theorem State.EntryLaw.named {e : Entry} (h : s.EntryLaw p e) : ∃ i w, s.resolve e.handle = some i ∧
    s.waferAt i = some w ∧ w.boundPort = some p ∧ (w.state = .active ∨ w.state = .draining) := by
  obtain ⟨⟨i, hi, w, hw, hp, hs, -⟩, -⟩ := h
  exact ⟨i, w, hi, hw, hp, hs⟩

/-- An entry keeps its law where its wafer keeps its grid and stays ACTIVE or DRAINING on the head. -/
theorem State.EntryLaw.carry {e : Entry} (h : s.EntryLaw p e) (hb : t.binClass = s.binClass)
    (hw : ∀ i w, s.resolve e.handle = some i → s.waferAt i = some w → w.boundPort = some p →
      (w.state = .active ∨ w.state = .draining) → t.resolve e.handle = some i ∧ ∃ v, t.waferAt i = some v ∧
        v.boundPort = some p ∧ (v.state = .active ∨ v.state = .draining) ∧ v.rows = w.rows ∧ v.columns = w.columns) :
    t.EntryLaw p e := by
  obtain ⟨⟨i, hi, w, hwi, hp, hs, sites⟩, rest⟩ := h
  obtain ⟨hr, v, hv, hvp, hvs, rows, columns⟩ := hw i w hi hwi hp hs
  refine ⟨⟨i, hr, v, hv, hvp, hvs, fun d hd => ?_⟩, rest⟩
  obtain ⟨hc, hrow, hres⟩ := sites d hd
  exact ⟨columns ▸ hc, rows ▸ hrow, fun r h => by rw [hb]; exact hres r h⟩

/-- A slot that stays as it is keeps its handle. -/
theorem State.resolve_of_slot {i : SlotId} (hs : tabGet t.slots i = tabGet s.slots i) {x : Byte}
    (hr : s.resolve x = some i) : t.resolve x = some i := by
  rw [State.resolve_eq_some_iff, State.waferAt, hs]
  exact (State.resolve_eq_some_iff s x i).mp hr

end

end Sys2Proof.Machine
end

section
/-! PROOFS. The law of the heads: bindings, outbound queues and touchdown lists together, kept by quiet changes, by a
change of one port, by the unbinding, the binding and the restating of one wafer (for O9, O11, O12). -/
namespace Sys2Proof.Machine

/-- A list of touchdowns a port may have (R42, R49). -/
structure State.ListLaw (s : State) (p : PortId) (es : List Entry) : Prop where
  room : es.length ≤ 4
  tags : (es.map (·.tag)).Nodup
  entries : ∀ e ∈ es, s.EntryLaw p e

/-- An entry of a head's list names the wafer in a slot. -/
def State.namedAt (s : State) (p : PortId) (i : SlotId) : Prop := ∃ e ∈ (s.port p).touchdowns, e.handle = s.handleOf i

/-- The laws of bindings, outbound queues and touchdown lists; the DRAINING wafers in the slots of `X` may have lost
their entries. -/
structure State.Heads (X : SlotId → Prop) (s : State) : Prop where
  binding : s.BindingLaw
  queue : ∀ p, QueueLaw (s.boundAt p) s.handleOf (s.port p).outbound
  off : ∀ p, (s.port p).session = .disabled → (s.port p).outbound = []
  list : ∀ p, s.ListLaw p (s.port p).touchdowns
  drain : ∀ i w, s.waferAt i = some w → w.state = .draining → ¬X i → ∀ p, w.boundPort = some p → s.namedAt p i

/-- The front of a list takes results (R55). -/
def FrontOpen (es : List Entry) : Prop := ∀ e ∈ es.head?, e.state = .isOpen

theorem State.touchdownLaw_iff (s : State) : s.TouchdownLaw ↔ (∀ p, s.ListLaw p (s.port p).touchdowns) ∧
    (∀ p, FrontOpen (s.port p).touchdowns) ∧
    ∀ i w, s.waferAt i = some w → w.state = .draining → ∀ p, w.boundPort = some p → s.namedAt p i := by
  constructor
  · rintro ⟨lists, drain⟩
    refine ⟨fun p => ?_, fun p => (lists p).2.2.2, drain⟩
    obtain ⟨room, tags, entries, -⟩ := lists p
    exact ⟨room, tags, entries⟩
  · rintro ⟨lists, front, drain⟩
    exact ⟨fun p => ⟨(lists p).room, (lists p).tags, (lists p).entries, front p⟩, drain⟩

section
variable {X Y : SlotId → Prop} {s t : State} {p : PortId}

/-- A port whose session is not UP has an empty list, since its entries would name wafers it has not. -/
theorem State.Heads.down (h : s.Heads X) (hd : (s.port p).session ≠ .up) : (s.port p).touchdowns = [] := by
  refine List.eq_nil_iff_forall_not_mem.mpr fun e he => hd ?_
  obtain ⟨i, w, -, hw, hp, hs⟩ := ((h.list p).entries e he).named
  refine h.binding.up hw hp fun hsus => ?_
  rw [hsus] at hs
  rcases hs with hs | hs <;> cases hs

theorem State.Heads.outbound_length (h : s.Heads X) (p : PortId) : (s.port p).outbound.length ≤ 8 :=
  (h.queue p).length_le s.handleOf_injective (h.binding.two_bound p)

theorem State.Heads.mono (h : s.Heads X) (hxy : ∀ i, X i → Y i) : s.Heads Y :=
  { h with drain := fun i w hw hs hy => h.drain i w hw hs fun hx => hy (hxy i hx) }

/-! ### Quiet changes -/

theorem State.Quiet.binding_law (q : s.Quiet t) (h : s.BindingLaw) : t.BindingLaw :=
  h.keep q.binding fun r hr => (q.session r).trans hr

theorem State.Quiet.listLaw (q : s.Quiet t) {es : List Entry} (h : s.ListLaw p es) : t.ListLaw p es :=
  ⟨h.room, h.tags, fun e he => (h.entries e he).carry q.binClass fun i w hi hw hp hs => by
    obtain ⟨v, hv, hb, hr, hc⟩ := q.waferAt hw
    obtain ⟨hvs, hvp⟩ := Prod.mk.inj hb
    exact ⟨(q.resolve _).trans hi, v, hv, hvp.trans hp, hvs ▸ hs, hr, hc⟩⟩

theorem State.Quiet.heads (q : s.Quiet t) (h : s.Heads X) : t.Heads X := by
  refine ⟨q.binding_law h.binding, fun p => ?_, fun p hd => ?_, fun p => ?_, fun i v hv hs hx p hp => ?_⟩
  · have bound : t.boundAt p = s.boundAt p := funext fun i => State.boundAt_congr (q.binding i) p
    rw [bound, funext q.handleOf]
    exact (h.queue p).rejoin (q.outbound p).1 ((q.outbound p).2 (h.queue p).holds)
  · rw [q.session] at hd
    rw [q.still p (by rw [hd]; exact Session.noConfusion)]
    exact h.off p hd
  · rw [q.touchdowns]
    exact q.listLaw (h.list p)
  · obtain ⟨w, hw, hb⟩ := q.waferAt_back hv
    obtain ⟨hvs, hvp⟩ := Prod.mk.inj hb
    obtain ⟨e, he, hh⟩ := h.drain i w hw (hvs ▸ hs) hx p (hvp ▸ hp)
    exact ⟨e, by rw [q.touchdowns]; exact he, hh.trans (q.handleOf i).symm⟩

/-! ### One port -/

/-- A change of one port: its session does not end, and its new queue and list are lawful. -/
theorem State.Heads.withPort (h : s.Heads X) (p : PortId) (f : Port → Port)
    (up : (s.port p).session = .up → (f (s.port p)).session = .up)
    (queue : QueueLaw (s.boundAt p) s.handleOf (f (s.port p)).outbound)
    (off : (f (s.port p)).session = .disabled → (f (s.port p)).outbound = [])
    (list : s.ListLaw p (f (s.port p)).touchdowns)
    (drain : ∀ i w, s.waferAt i = some w → w.state = .draining → ¬Y i → w.boundPort = some p →
      ∃ e ∈ (f (s.port p)).touchdowns, e.handle = s.handleOf i)
    (hxy : ∀ i, X i → Y i) : (s.withPort p f).Heads Y := by
  have sessions : ∀ q, (s.port q).session = .up → ((s.withPort p f).port q).session = .up := fun q hq => by
    rw [State.port_withPort]
    split
    · next e => rw [e]; exact up (e ▸ hq)
    · exact hq
  refine ⟨h.binding.keep (fun _ => rfl) sessions, fun q => ?_, fun q => ?_, fun q => ?_,
    fun i w hw hs hy q hq => ?_⟩
  · by_cases hq : q = p
    · rw [hq, State.port_withPort_self]
      exact queue
    · rw [State.port_withPort_ne _ _ hq]
      exact h.queue q
  · by_cases hq : q = p
    · rw [hq, State.port_withPort_self]
      exact off
    · rw [State.port_withPort_ne _ _ hq]
      exact h.off q
  · by_cases hq : q = p
    · rw [hq, State.port_withPort_self]
      exact ⟨list.room, list.tags, list.entries⟩
    · rw [State.port_withPort_ne _ _ hq]
      exact ⟨(h.list q).room, (h.list q).tags, (h.list q).entries⟩
  · unfold State.namedAt
    by_cases hqp : q = p
    · subst hqp
      rw [State.port_withPort_self]
      exact drain i w hw hs hy hq
    · rw [State.port_withPort_ne _ _ hqp]
      exact h.drain i w hw hs (fun hx => hy (hxy i hx)) q hq

/-- A frame joins, leaves or is taken out of one outbound queue. -/
theorem State.Heads.requeue (h : s.Heads X) (p : PortId) (f : Port → Port)
    (queue : QueueLaw (s.boundAt p) s.handleOf (f (s.port p)).outbound)
    (off : (s.port p).session = .disabled → (f (s.port p)).outbound = [])
    (hs : (f (s.port p)).session = (s.port p).session := by rfl)
    (ht : (f (s.port p)).touchdowns = (s.port p).touchdowns := by rfl) : (s.withPort p f).Heads X :=
  h.withPort p f (fun up => hs.trans up) queue (fun hd => off (hs ▸ hd)) (by rw [ht]; exact h.list p)
    (fun i w hw hd hx hp => by rw [ht]; exact h.drain i w hw hd hx p hp) fun _ => id

/-- An answer joins the queue of a port that has taken a frame (R148, R149). -/
theorem State.Heads.answer (h : s.Heads X) (on : (s.port p).session ≠ .disabled)
    (room : ((s.port p).outbound.filter HeadOut.isAnswer).length ≤ 2) {f : HeadOut} (hf : f.isAnswer = true) :
    (s.queueOut p f).Heads X := by
  have joined : joinOutbound (s.port p).outbound f = (s.port p).outbound ++ [f] := by
    cases f with
    | hold _ _ => cases hf
    | proceed _ => cases hf
    | cancel _ => cases hf
    | _ => rfl
  refine h.requeue p _ ?_ fun hd => (on hd).elim
  show QueueLaw _ _ (joinOutbound _ _)
  rw [joined]
  exact (h.queue p).answer hf room

/-- A HOLD or PROCEED joins the queue of a port that is not DISABLED (R149 rule 1). -/
theorem State.Heads.queueHold (h : s.Heads X) (on : (s.port p).session ≠ .disabled) {f : HeadOut}
    (hf : f.isHoldFrame = true) : (s.queueOut p f).Heads X := by
  obtain ⟨same, hold⟩ := Requeued.join (s.port p).outbound hf
  exact h.requeue p _ ((h.queue p).rejoin same (hold (h.queue p).holds)) fun hd => (on hd).elim

/-- A head's list is replaced by one that names the DRAINING wafers the law asks for. -/
theorem State.Heads.setTouchdowns (h : s.Heads X) (p : PortId) {es : List Entry} (list : s.ListLaw p es)
    (drain : ∀ i w, s.waferAt i = some w → w.state = .draining → ¬Y i → w.boundPort = some p →
      ∃ e ∈ es, e.handle = s.handleOf i) (hxy : ∀ i, X i → Y i) : (s.setTouchdowns p es).Heads Y :=
  h.withPort p _ id (h.queue p) (h.off p) list drain hxy

/-! ### The unbinding and the binding of a wafer (R22, R26, R31, R34, R36, R149) -/

/-- What a slot that stays as it is leaves as it is. -/
theorem State.slot_same {i : SlotId} (h : tabGet t.slots i = tabGet s.slots i) :
    t.waferAt i = s.waferAt i ∧ t.handleOf i = s.handleOf i := by
  constructor
  · rw [State.waferAt, State.waferAt, h]
  · rw [State.handleOf, State.handleOf, h]

/-- The lists and the DRAINING wafers of the other slots keep their laws where one slot changes that no entry names. -/
theorem State.Heads.other_slots (h : s.Heads X) (i : SlotId) (bins : t.bins = s.bins)
    (others : ∀ j, j ≠ i → tabGet t.slots j = tabGet s.slots j)
    (touchdowns : ∀ p, (t.port p).touchdowns = (s.port p).touchdowns)
    (unnamed : ∀ p w, s.waferAt i = some w → w.boundPort = some p → ¬s.namedAt p i) :
    (∀ p, t.ListLaw p (t.port p).touchdowns) ∧
    ∀ j w, j ≠ i → t.waferAt j = some w → w.state = .draining → ¬X j → ∀ p, w.boundPort = some p → t.namedAt p j := by
  have same : t.binClass = s.binClass := by unfold State.binClass; rw [bins]
  constructor
  · intro p
    rw [touchdowns]
    refine ⟨(h.list p).room, (h.list p).tags, fun e he => ((h.list p).entries e he).carry same fun j w hj hw hp hs => ?_⟩
    have hji : j ≠ i := fun e' =>
      unnamed p w (e' ▸ hw) hp ⟨e, he, (e' ▸ (State.handleOf_resolve hj).symm)⟩
    exact ⟨State.resolve_of_slot (others j hji) hj, w, (State.slot_same (others j hji)).1.trans hw, hp, hs, rfl, rfl⟩
  · intro j w hj hw hs hx p hp
    obtain ⟨wafer, handle⟩ := State.slot_same (others j hj)
    obtain ⟨e, he, hh⟩ := h.drain j w (wafer ▸ hw) hs hx p hp
    exact ⟨e, by rw [touchdowns]; exact he, hh.trans handle.symm⟩

/-- A wafer that no entry names is unbound, or its slot becomes FREE. -/
theorem State.Heads.unbind (h : s.Heads X) (i : SlotId) (bins : t.bins = s.bins)
    (others : ∀ j, j ≠ i → tabGet t.slots j = tabGet s.slots j)
    (generation : (tabGet t.slots i).generation = (tabGet s.slots i).generation)
    (gone : ∀ v, t.waferAt i = some v → v.state.isBound = false ∧ v.boundPort = none)
    (session : ∀ p, (t.port p).session = (s.port p).session)
    (touchdowns : ∀ p, (t.port p).touchdowns = (s.port p).touchdowns)
    (unnamed : ∀ p w, s.waferAt i = some w → w.boundPort = some p → ¬s.namedAt p i)
    (queue : ∀ p, QueueLaw (without (s.boundAt p) i) s.handleOf (t.port p).outbound)
    (off : ∀ p, (s.port p).session = .disabled → (t.port p).outbound = []) : t.Heads fun j => X j ∧ j ≠ i := by
  obtain ⟨list, drain⟩ := h.other_slots i bins others touchdowns unnamed
  have binding : ∀ j, j ≠ i → (t.waferAt j).map Wafer.binding = (s.waferAt j).map Wafer.binding := fun j hj => by
    rw [(State.slot_same (others j hj)).1]
  refine ⟨h.binding.change i binding (fun q hq => (session q).trans hq) fun v hv => ?_, fun p => ?_,
    fun p hd => off p (session p ▸ hd), list, fun j w hw hs hx p hp => ?_⟩
  · obtain ⟨hbound, hport⟩ := gone v hv
    exact ⟨by rw [hbound, hport]; rfl, fun q hq => by rw [hport] at hq; cases hq⟩
  · have handles : t.handleOf = s.handleOf := funext fun j => by
      by_cases hj : j = i
      · rw [hj, State.handleOf, State.handleOf, generation]
      · exact (State.slot_same (others j hj)).2
    rw [handles]
    refine (queue p).congr (fun j => ?_) fun _ _ => rfl
    by_cases hj : j = i
    · subst hj
      rw [State.boundAt_eq_false fun v hv hb => by rw [(gone v hv).1] at hb; cases hb]
      simp [without]
    · rw [State.boundAt_congr (binding j hj)]
      simp [without, hj]
  · by_cases hj : j = i
    · have := (gone w (hj ▸ hw)).1
      rw [hs] at this
      cases this
    · exact drain j w hj hw hs (fun hxj => hx ⟨hxj, hj⟩) p hp

/-- A wafer becomes ACTIVE on an UP head that has none ACTIVE or SUSPENDED, and its ASSIGN joins the queue. -/
theorem State.Heads.bind (h : s.Heads X) (i : SlotId) (bins : t.bins = s.bins)
    (others : ∀ j, j ≠ i → tabGet t.slots j = tabGet s.slots j)
    (unbound : ∀ w, s.waferAt i = some w → w.boundPort = none)
    {v : Wafer} (hv : t.waferAt i = some v) (active : v.state = .active) (hp : v.boundPort = some p)
    (up : (s.port p).session = .up)
    (alone : ∀ j, j ≠ i → ∀ w, s.waferAt j = some w → w.boundPort = some p → ¬w.live)
    (session : ∀ q, (t.port q).session = (s.port q).session)
    (touchdowns : ∀ q, (t.port q).touchdowns = (s.port q).touchdowns)
    {f : HeadOut} (hf : f.assigns (t.handleOf i) = true)
    (outbound : ∀ q, (t.port q).outbound = if q = p then (s.port q).outbound ++ [f] else (s.port q).outbound) :
    t.Heads X := by
  obtain ⟨list, drain⟩ := h.other_slots i bins others touchdowns fun q w hw hq => by rw [unbound w hw] at hq; cases hq
  have binding : ∀ j, j ≠ i → (t.waferAt j).map Wafer.binding = (s.waferAt j).map Wafer.binding := fun j hj => by
    rw [(State.slot_same (others j hj)).1]
  have free : ∀ q, s.boundAt q i = false := fun q => State.boundAt_eq_false fun w hw _ hq => by
    rw [unbound w hw] at hq; cases hq
  have kept : ∀ q, QueueLaw (s.boundAt q) t.handleOf (s.port q).outbound := fun q =>
    (h.queue q).congr (fun _ => rfl) fun j hj =>
      (State.slot_same (others j fun e => by rw [e, free] at hj; cases hj)).2
  refine ⟨h.binding.change i binding (fun q hq => (session q).trans hq) fun u hu => ?_, fun q => ?_, fun q hd => ?_, list,
    fun j w hw hs hx q hq => ?_⟩
  · obtain rfl : v = u := Option.some.inj (hv.symm.trans hu)
    refine ⟨by rw [active, hp]; rfl, fun q hq => ?_⟩
    obtain rfl : p = q := Option.some.inj (hp.symm.trans hq)
    refine ⟨fun _ => (session p).trans up, fun j hj w hw hwp hr => ?_⟩
    rcases hr with ⟨-, hl⟩ | ⟨hd, -⟩
    · exact alone j hj w hw hwp hl
    · rw [active] at hd
      cases hd
  · rw [outbound]
    by_cases hq : q = p
    · subst hq
      rw [if_pos rfl]
      refine ((kept q).bind t.handleOf_injective (free q) hf).congr (fun j => ?_) fun _ _ => rfl
      by_cases hj : j = i
      · subst hj
        rw [State.boundAt_iff.mpr ⟨v, hv, by rw [active]; rfl, hp⟩]
        simp [withSlot]
      · rw [State.boundAt_congr (binding j hj)]
        simp [withSlot, hj]
    · rw [if_neg hq]
      refine (kept q).congr (fun j => ?_) fun _ _ => rfl
      by_cases hj : j = i
      · subst hj
        rw [free, State.boundAt_eq_false fun u hu _ hqu => ?_]
        obtain rfl : v = u := Option.some.inj (hv.symm.trans hu)
        exact hq (Option.some.inj (hqu.symm.trans hp))
      · exact State.boundAt_congr (binding j hj) q
  · rw [session] at hd
    rw [outbound, if_neg fun e => by rw [e, up] at hd; cases hd]
    exact h.off q hd
  · by_cases hj : j = i
    · obtain rfl : v = w := Option.some.inj (hv.symm.trans (hj ▸ hw))
      rw [active] at hs
      cases hs
    · exact drain j w hj hw hs hx q hq

/-- A bound wafer becomes ACTIVE or DRAINING where it is bound. -/
theorem State.Heads.restate (h : s.Heads X) {i : SlotId} {w : Wafer} (hw : s.waferAt i = some w)
    (hp : w.boundPort = some p) (up : (s.port p).session = .up) {st : WaferState} (hst : st = .active ∨ st = .draining)
    (alone : ∀ j, j ≠ i → ∀ u, s.waferAt j = some u → u.boundPort = some p → ¬Wafer.rivals { w with state := st } u)
    (named : st = .draining → s.namedAt p i) : (s.withWafer i fun w => { w with state := st }).Heads X := by
  have changed : (s.withWafer i fun w => { w with state := st }).waferAt i = some { w with state := st } := by
    rw [State.waferAt_withWafer_self, hw, Option.map_some]
  have bound : st.isBound = true := by rcases hst with e | e <;> rw [e] <;> rfl
  have same : ∀ j q, (s.withWafer i fun w => { w with state := st }).boundAt q j = s.boundAt q j := fun j q => by
    by_cases hj : j = i
    · subst hj
      rw [State.boundAt, State.boundAt, changed, hw, Option.any_some, Option.any_some, Wafer.boundTo, Wafer.boundTo, bound,
        h.binding.isBound hw hp]
    · exact State.boundAt_congr (by rw [State.waferAt_withWafer_ne _ _ hj]) q
  have resolve : ∀ x, (s.withWafer i fun w => { w with state := st }).resolve x = s.resolve x :=
    ((State.WorkFrame.refl s).withWafer i _).resolve
  have handle : ∀ j, (s.withWafer i fun w => { w with state := st }).handleOf j = s.handleOf j :=
    ((State.WorkFrame.refl s).withWafer i _).handleOf
  refine ⟨h.binding.change i (fun j hj => ?_) (fun _ => id) fun v hv => ?_, fun q => ?_, h.off, fun q => ?_,
    fun j u hu hs hx q hq => ?_⟩
  · rw [State.waferAt_withWafer_ne _ _ hj]
  · obtain rfl : { w with state := st } = v := Option.some.inj (changed.symm.trans hv)
    refine ⟨bound.trans (by rw [hp]; rfl), fun q hq => ?_⟩
    obtain rfl : p = q := Option.some.inj (hp.symm.trans hq)
    exact ⟨fun _ => up, alone⟩
  · exact (h.queue q).congr (fun j => same j q) fun j _ => handle j
  · refine ⟨(h.list q).room, (h.list q).tags, fun e he => ((h.list q).entries e he).carry rfl fun j u hj hu hq hs => ?_⟩
    refine ⟨(resolve _).trans hj, ?_⟩
    by_cases hji : j = i
    · subst hji
      obtain rfl : w = u := Option.some.inj (hw.symm.trans hu)
      exact ⟨_, changed, hq, hst, rfl, rfl⟩
    · exact ⟨u, (s.waferAt_withWafer_ne _ hji).trans hu, hq, hs, rfl, rfl⟩
  · unfold State.namedAt
    rw [handle]
    by_cases hj : j = i
    · subst hj
      obtain rfl : { w with state := st } = u := Option.some.inj (changed.symm.trans hu)
      obtain rfl : p = q := Option.some.inj (hp.symm.trans hq)
      exact named hs
    · rw [State.waferAt_withWafer_ne _ _ hj] at hu
      exact h.drain j u hu hs hx q hq

/-- Where no wafer is bound and nothing waits, nothing is asked. -/
theorem State.heads_empty (free : ∀ i, s.waferAt i = none) (outbound : ∀ p, (s.port p).outbound = [])
    (touchdowns : ∀ p, (s.port p).touchdowns = []) : s.Heads X := by
  have no : ∀ {i w} {P : Prop}, s.waferAt i = some w → P := fun {i w P} hw =>
    (Option.some_ne_none w (hw.symm.trans (free i))).elim
  refine ⟨⟨fun i w hw => no hw, fun i w hw => no hw, fun i j v hv => no hv⟩, fun p => ?_, fun p _ => outbound p, fun p => ?_,
    fun i w hw => no hw⟩
  · rw [outbound]
    exact .nil
  · rw [touchdowns]
    exact ⟨Nat.zero_le 4, List.nodup_nil, fun e he => (List.not_mem_nil he).elim⟩

end

end Sys2Proof.Machine
end

section
/-! PROOFS. The law of the heads through a wafer's end, the application pass, the voiding of a wafer and the loss of a
head (R26, R28, R34, R55, R56, R60, R61; for O9, O11, O12). -/
namespace Sys2Proof.Machine

theorem State.resolve_handleOf {s : State} {i : SlotId} {w : Wafer} (hw : s.waferAt i = some w) :
    s.resolve (s.handleOf i) = some i := by
  rw [State.resolve_eq_some_iff]
  refine ⟨mkHandle_slot i _, by rw [hw]; rfl, ?_⟩
  have := (tabGet s.slots i).generation.isLt
  have := i.isLt
  simp only [State.handleOf, mkHandle, BitVec.toNat_ofNat]
  omega

theorem State.WorkFrame.line {s t : State} (h : s.WorkFrame t) {p : PortId} (hl : (s.port p).LineLaw) :
    (t.port p).LineLaw := hl.still (h.ports p)

section
variable {X Y : SlotId → Prop} {s t : State} {p : PortId}

/-! ### A wafer ends (R26, R34) -/

/-- A record that is bound nowhere. -/
def Wafer.unbound (w : Wafer) : Prop := w.state.isBound = false ∧ w.boundPort = none

/-- The state in which a wafer's end begins: as it stands, or with a CANCEL queued to the wafer's UP head. -/
def State.ending (s t : State) (i : SlotId) (w : Wafer) : Prop :=
  t = s ∨ ∃ p, w.boundPort = some p ∧ (s.port p).session = .up ∧ t = s.queueOut p (.cancel (s.handleOf i))

/-- What the queue of a port becomes as a wafer ends. -/
theorem State.Heads.endingQueue (h : s.Heads X) {i : SlotId} {w : Wafer} (hw : s.waferAt i = some w)
    (hb : w.state.isBound = true) (he : s.ending t i w) (q : PortId) : QueueLaw (without (s.boundAt q) i) s.handleOf
      (if w.boundPort = some q then (t.port q).outbound.filter fun f => !f.assigns (s.handleOf i) else (t.port q).outbound) := by
  by_cases hq : w.boundPort = some q
  · rw [if_pos hq]
    have bound : s.boundAt q i = true := State.boundAt_iff.mpr ⟨w, hw, hb, hq⟩
    rcases he with rfl | ⟨p, hp, -, rfl⟩
    · exact (h.queue q).unbind t.handleOf_injective i
    · obtain rfl : p = q := Option.some.inj (hp.symm.trans hq)
      rw [State.queueOut, State.port_withPort_self]
      exact (h.queue p).cancel s.handleOf_injective bound (h.binding.two_bound p)
  · rw [if_neg hq]
    have free : s.boundAt q i = false := State.boundAt_eq_false fun v hv _ hvq =>
      hq (Option.some.inj (hw.symm.trans hv) ▸ hvq)
    have same : (t.port q).outbound = (s.port q).outbound := by
      rcases he with rfl | ⟨p, hp, -, rfl⟩
      · rfl
      · rw [State.queueOut, State.port_withPort_ne _ _ fun e => hq (by rw [e]; exact hp)]
    rw [same]
    refine (h.queue q).congr (fun j => ?_) fun _ _ => rfl
    by_cases hj : j = i
    · rw [hj, free, without, free, Bool.false_and]
    · rw [without, bne_iff_ne.mpr hj, Bool.and_true]

/-- A wafer that no entry names leaves its port, and its ASSIGN the queue. -/
theorem State.Heads.release (h : s.Heads X) {i : SlotId} {w : Wafer} (hw : s.waferAt i = some w)
    (hb : w.state.isBound = true) (unnamed : ∀ p, w.boundPort = some p → ¬s.namedAt p i) {f : Wafer → Wafer}
    (hf : (f w).unbound) (he : s.ending t i w) :
    ((t.withWafer i f).dropAssignAt w.boundPort (s.handleOf i)).Heads fun j => X j ∧ j ≠ i := by
  have slots : t.slots = s.slots := by rcases he with rfl | ⟨p, -, -, rfl⟩ <;> rfl
  have frame : s.WorkFrame t := by
    rcases he with rfl | ⟨p, -, -, rfl⟩
    · exact .refl _
    · exact (State.WorkFrame.refl s).queueOut p _
  have touchdowns : ∀ q, (t.port q).touchdowns = (s.port q).touchdowns := fun q => by
    rcases he with rfl | ⟨p, -, -, rfl⟩
    · rfl
    · rw [State.queueOut, State.port_withPort]
      split <;> rfl
  have off : ∀ q, (s.port q).session = .disabled → (t.port q).outbound = [] := fun q hd => by
    rcases he with rfl | ⟨p, -, up, rfl⟩
    · exact h.off q hd
    · rw [State.queueOut, State.port_withPort_ne _ _ fun e => by rw [← e, hd] at up; cases up]
      exact h.off q hd
  have bins : ((t.withWafer i f).dropAssignAt w.boundPort (s.handleOf i)).bins = s.bins := by
    rw [← frame.bins]
    cases w.boundPort <;> rfl
  have port : ∀ q, ((t.withWafer i f).dropAssignAt w.boundPort (s.handleOf i)).port q = { t.port q with
      outbound := if w.boundPort = some q then (t.port q).outbound.filter fun f => !f.assigns (s.handleOf i)
        else (t.port q).outbound } := fun q => by
    rw [State.port_dropAssignAt]
    by_cases hq : w.boundPort = some q
    · rw [if_pos hq.symm, if_pos hq]; rfl
    · rw [if_neg (Ne.symm hq), if_neg hq]; rfl
  have slot : ∀ j, tabGet ((t.withWafer i f).dropAssignAt w.boundPort (s.handleOf i)).slots j =
      ⟨(tabGet s.slots j).generation, if j = i then (s.waferAt i).map f else s.waferAt j⟩ := fun j => by
    obtain ⟨slots', -, -⟩ := (t.withWafer i f).dropAssignAt_rest w.boundPort (s.handleOf i)
    rw [slots', State.slot_withWafer, State.waferAt, State.waferAt, slots]; rfl
  refine h.unbind i bins (fun j hj => ?_) (by rw [slot]) (fun v hv => ?_) (fun q => by rw [port]; exact frame.session q)
    (fun q => by rw [port]; exact touchdowns q) (fun q v hv hq => ?_) (fun q => by rw [port]; exact h.endingQueue hw hb he q)
    fun q hd => ?_
  · rw [slot, if_neg hj]
    rfl
  · rw [State.waferAt, slot, if_pos rfl, hw] at hv
    exact Option.some.inj hv ▸ hf
  · exact unnamed q (Option.some.inj (hw.symm.trans hv) ▸ hq)
  · rw [port]
    show (if _ then _ else _) = []
    rw [off q hd]
    split <;> rfl

/-- The work that a wafer's end does besides its unbinding is quiet. -/
theorem State.quiet_enterClosed {i : SlotId} {w : Wafer} (hw : s.waferAt i = some w) (c : CloseCause) :
    ((s.withWafer i (·.close c)).dropAssignAt w.boundPort (s.handleOf i)).Quiet (s.enterClosed i c) := by
  rw [State.enterClosed_eq hw]
  exact ((((State.Quiet.refl _).notify _).rollUp w _ _).judgeBound _ _ _).settleLamps

theorem State.quiet_enterAbandoned {i : SlotId} {w : Wafer} (hw : s.waferAt i = some w) :
    ((s.withWafer i Wafer.abandon).dropAssignAt w.boundPort (s.handleOf i)).Quiet (s.enterAbandoned i) := by
  rw [State.enterAbandoned_eq hw]
  exact (((State.Quiet.refl _).countAbandoned w).judgeBound _ _ _).settleLamps

theorem State.touchdowns_enterAbandoned (s : State) (i : SlotId) (q : PortId) :
    ((s.enterAbandoned i).port q).touchdowns = (s.port q).touchdowns := by
  cases hw : s.waferAt i with
  | none =>
    unfold State.enterAbandoned
    rw [hw]
  | some w =>
    rw [(State.quiet_enterAbandoned hw).touchdowns q, State.port_dropAssignAt]
    split <;> rfl

/-- A bound wafer that no entry names closes. -/
theorem State.Heads.enterClosed (h : s.Heads X) {i : SlotId} {w : Wafer} (hw : s.waferAt i = some w)
    (hb : w.state.isBound = true) (unnamed : ∀ p, w.boundPort = some p → ¬s.namedAt p i) (c : CloseCause) :
    (s.enterClosed i c).Heads fun j => X j ∧ j ≠ i :=
  (State.quiet_enterClosed hw c).heads (h.release hw hb unnamed ⟨rfl, rfl⟩ (.inl rfl))

/-! ### The application pass (R55, R56) -/

/-- One entry of the pass: applied, removed, and its wafer closed where it drained. -/
def State.passOne (s : State) (p : PortId) (e : Entry) (rest : List Entry) : State :=
  ((s.applyEntry e).setTouchdowns p rest).drainClose e.handle rest

theorem State.pass_cons (s : State) (p : PortId) (e : Entry) (rest : List Entry) :
    s.pass p (e :: rest) = if e.state = .isSealed then (s.passOne p e rest).pass p rest else s := rfl

theorem State.touchdowns_drainClose (s : State) (x : Byte) (rest : List Entry) (q : PortId) :
    ((s.drainClose x rest).port q).touchdowns = (s.port q).touchdowns := by
  unfold State.drainClose
  split
  · rfl
  · split
    · rfl
    · split
      · exact s.touchdowns_enterClosed _ _ q
      · rfl

theorem State.touchdowns_passOne (s : State) (p : PortId) (e : Entry) (rest : List Entry) (q : PortId) :
    ((s.passOne p e rest).port q).touchdowns = if q = p then rest else (s.port q).touchdowns := by
  have quiet := ((State.Quiet.refl s).applyEntry e).touchdowns q
  unfold State.passOne
  rw [State.touchdowns_drainClose, State.setTouchdowns, State.port_withPort]
  split
  · rfl
  · exact quiet

/-- What every entry of a pass keeps, the pass keeps. -/
theorem State.pass_induction {P : State → Prop} (p : PortId)
    (one : ∀ s e rest, P s → (s.port p).touchdowns = e :: rest → e.state = .isSealed → P (s.passOne p e rest)) :
    ∀ es s, (s.port p).touchdowns = es → P s → P (s.pass p es) := by
  intro es
  induction es with
  | nil => exact fun _ _ h => h
  | cons e rest ih =>
    intro s hs h
    rw [State.pass_cons]
    split
    · next sealed =>
      exact ih _ ((s.touchdowns_passOne p e rest p).trans (if_pos rfl)) (one s e rest h hs sealed)
    · exact h

/-- An entry takes no more results. -/
def Entry.sealed (e : Entry) : Bool := e.state == .isSealed

theorem Entry.sealed_iff (e : Entry) : e.sealed = true ↔ e.state = .isSealed := beq_iff_eq

/-- A pass removes the sealed entries at the front of its list. -/
theorem State.touchdowns_pass (p q : PortId) : ∀ (es : List Entry) (s : State), (s.port p).touchdowns = es →
    ((s.pass p es).port q).touchdowns = if q = p then es.dropWhile Entry.sealed else (s.port q).touchdowns := by
  intro es
  induction es with
  | nil =>
    intro s hs
    split
    · next e => rw [e]; exact hs
    · rfl
  | cons e rest ih =>
    intro s hs
    rw [State.pass_cons]
    by_cases sealed : e.state = .isSealed
    · rw [if_pos sealed, ih _ ((s.touchdowns_passOne p e rest p).trans (if_pos rfl)),
        List.dropWhile_cons_of_pos (e.sealed_iff.mpr sealed)]
      split
      · rfl
      · next hq => exact (s.touchdowns_passOne p e rest q).trans (if_neg hq)
    · rw [if_neg sealed, List.dropWhile_cons_of_neg (fun he => sealed (e.sealed_iff.mp he))]
      split
      · next e => rw [e]; exact hs
      · rfl

theorem EntryState.isOpen_of_ne {st : EntryState} (h : st ≠ .isSealed) : st = .isOpen := by
  cases st with
  | isOpen => rfl
  | isSealed => exact (h rfl).elim

theorem frontOpen_dropWhile (es : List Entry) : FrontOpen (es.dropWhile Entry.sealed) := by
  intro e he
  refine EntryState.isOpen_of_ne fun sealed => ?_
  have front := List.head?_dropWhile_not Entry.sealed es
  rw [Option.mem_def.mp he] at front
  exact Bool.eq_false_iff.mp front (e.sealed_iff.mpr sealed)

theorem State.ListLaw.sublist {es fs : List Entry} (h : s.ListLaw p es) (hs : fs.Sublist es) : s.ListLaw p fs :=
  ⟨hs.length_le.trans h.room, (hs.map _).nodup h.tags, fun e he => h.entries e (hs.subset he)⟩

/-- One entry of the pass keeps the law of the heads. -/
theorem State.Heads.passOne (h : s.Heads X) {e : Entry} {rest : List Entry} (hs : (s.port p).touchdowns = e :: rest) :
    (s.passOne p e rest).Heads X := by
  have quiet := (State.Quiet.refl s).applyEntry e
  have applied : (s.applyEntry e).Heads X := quiet.heads h
  have list := applied.list p
  rw [quiet.touchdowns p, hs] at list
  obtain ⟨i, w, hi, hw, hp, hst⟩ := (list.entries e List.mem_cons_self).named
  have handle : (s.applyEntry e).handleOf i = e.handle := State.handleOf_resolve hi
  -- with the entry gone only its own wafer can drain without one
  have removed : ((s.applyEntry e).setTouchdowns p rest).Heads fun j => X j ∨ j = i := by
    refine applied.setTouchdowns p (list.sublist (List.sublist_cons_self e rest)) (fun j v hv hd hx hvp => ?_) fun _ => .inl
    obtain ⟨e', he', hh⟩ := applied.drain j v hv hd (fun hxj => hx (.inl hxj)) p hvp
    rw [quiet.touchdowns p, hs] at he'
    rcases List.mem_cons.mp he' with rfl | he'
    · exact (hx (.inr (Option.some.inj ((State.resolve_handleOf hv).symm.trans (hh ▸ hi))))).elim
    · exact ⟨e', he', hh⟩
  have list' : (((s.applyEntry e).setTouchdowns p rest).port p).touchdowns = rest := by
    rw [State.setTouchdowns, State.port_withPort_self]
  unfold State.passOne State.drainClose
  rw [show ((s.applyEntry e).setTouchdowns p rest).resolve e.handle = some i from hi]
  dsimp only
  rw [show ((s.applyEntry e).setTouchdowns p rest).waferAt i = some w from hw]
  dsimp only
  split
  · next hc =>
    refine (removed.enterClosed hw (applied.binding.isBound hw hp) (fun q hq hn => ?_) _).mono fun j hj =>
      hj.1.resolve_right hj.2
    obtain rfl : p = q := Option.some.inj (hp.symm.trans hq)
    obtain ⟨e', he', hh⟩ := hn
    rw [list'] at he'
    exact bne_iff_ne.mp (List.all_eq_true.mp hc.2 e' he') (hh.trans handle)
  · next hc =>
    refine { removed with drain := fun j v hv hd hx q hq => ?_ }
    by_cases hj : j = i
    · subst hj
      obtain rfl : w = v := Option.some.inj (hw.symm.trans hv)
      obtain rfl : p = q := Option.some.inj (hp.symm.trans hq)
      have some_left : ¬rest.all (fun e' => e'.handle != e.handle) = true := fun ha => hc ⟨hd, ha⟩
      rw [List.all_eq_true] at some_left
      push Not at some_left
      obtain ⟨e', he', hh⟩ := some_left
      exact ⟨e', by rw [list']; exact he', (by simpa using hh : e'.handle = e.handle).trans handle.symm⟩
    · exact removed.drain j v hv hd (fun hxj => hxj.elim hx hj) q hq

theorem State.Heads.runPass (h : s.Heads X) (p : PortId) : (s.runPass p).Heads X :=
  State.pass_induction p (fun _ _ _ h hs _ => h.passOne hs) _ s rfl h

theorem State.touchdowns_runPass (s : State) (p q : PortId) : ((s.runPass p).port q).touchdowns =
    if q = p then (s.port p).touchdowns.dropWhile Entry.sealed else (s.port q).touchdowns :=
  State.touchdowns_pass p q _ s rfl

end

end Sys2Proof.Machine
end

section
/-! PROOFS. The laws of the lines through the voiding of a wafer, a host ending and the loss of a head (R28, R32, R34,
R60, R61, R158; for O9, O11, O12). -/
namespace Sys2Proof.Machine

/-- The laws of the heads and of the lines together, with an OPEN front in every list. -/
structure State.Lines (s : State) : Prop where
  heads : s.Heads fun _ => False
  front : ∀ p, FrontOpen (s.port p).touchdowns
  line : ∀ p, (s.port p).LineLaw
  notices : s.NoticesFit
  host : s.host.Law

section
variable {X : SlotId → Prop} {s t : State} {p : PortId}

theorem State.Quiet.lines (q : s.Quiet t) (h : s.Lines) : t.Lines :=
  ⟨q.heads h.heads, fun p => by rw [q.touchdowns]; exact h.front p, fun p => q.line p (h.line p),
    q.notices h.notices, by rw [q.host]; exact h.host⟩

theorem State.Lines.quiet (h : s.Lines) (q : s.Quiet t) : t.Lines := q.lines h

/-! ### Notices through a wafer's end, a pass, a voiding and a loss (R170) -/

theorem State.NoticesFit.dropAssignAt (h : s.NoticesFit) (p : Option PortId) (x : Byte) : (s.dropAssignAt p x).NoticesFit := by
  cases p <;> exact h

theorem State.NoticesFit.enterClosed (h : s.NoticesFit) (i : SlotId) (c : CloseCause) : (s.enterClosed i c).NoticesFit := by
  cases hw : s.waferAt i with
  | none =>
    unfold State.enterClosed
    rw [hw]
    exact h
  | some w => exact (State.quiet_enterClosed hw c).notices ((h.withWafer i _).dropAssignAt _ _)

theorem State.NoticesFit.runPass (h : s.NoticesFit) (p : PortId) : (s.runPass p).NoticesFit := by
  refine State.pass_induction p (fun u e rest hu _ _ => ?_) _ s rfl h
  have applied : ((u.applyEntry e).setTouchdowns p rest).NoticesFit := ((State.Quiet.refl u).applyEntry e).notices hu
  unfold State.passOne State.drainClose
  split
  · exact applied
  · split
    · exact applied
    · split
      · exact applied.enterClosed _ _
      · exact applied

theorem State.NoticesFit.voidWafer (h : s.NoticesFit) (p : PortId) (i : SlotId) (x : Byte) :
    (s.voidWafer p i x).NoticesFit := by
  unfold State.voidWafer
  dsimp only
  split
  · exact ((h.withWafer i _).withPort p _).runPass p
  · exact h

theorem State.NoticesFit.queueOutIfUp (h : s.NoticesFit) (p : PortId) (f : HeadOut) : (s.queueOutIfUp p f).NoticesFit := by
  unfold State.queueOutIfUp
  split <;> exact h

theorem State.NoticesFit.foldl {α : Type} {f : State → α → State}
    (hf : ∀ (u : State) x, u.NoticesFit → (f u x).NoticesFit) (xs : List α) :
    ∀ {s : State}, s.NoticesFit → (xs.foldl f s).NoticesFit := by
  induction xs with
  | nil => exact id
  | cons x xs ih => exact fun h => ih (hf _ x h)

theorem State.NoticesFit.lose (h : s.NoticesFit) (p : PortId) (cause : LossCause) : (s.lose p cause).NoticesFit := by
  have unmanned : (s.unmanned p).NoticesFit := by
    refine .foldl (fun u i hu => ?_) _ (.foldl (fun u i hu => ?_) _ ?_)
    · unfold State.suspendIfActive
      split
      · split
        · exact (hu.withWafer i _).notify _
        · exact hu
      · exact hu
    · unfold State.closeIfDraining
      split
      · split
        · exact hu.enterClosed i _
        · exact hu
      · exact hu
    · refine State.NoticesFit.foldl (f := State.countVoided) (fun u e hu => ?_) (s.port p).touchdowns h
      unfold State.countVoided
      split <;> exact hu
  rw [State.lose_eq]
  generalize s.unmanned p = u at *
  exact (unmanned.withPort p _).notify _

/-! ### The voiding of a wafer's entries (R61) -/

theorem FrontOpen.filter {es : List Entry} (h : FrontOpen es) {f : Entry → Bool} (keep : ∀ e ∈ es.head?, f e = true) :
    FrontOpen (es.filter f) := by
  cases es with
  | nil => exact h
  | cons e es =>
    rw [List.filter_cons_of_pos (keep e rfl)]
    exact h

/-- The list of a head after a wafer's entries are voided: those of other wafers, less the sealed at a new front. -/
theorem State.touchdowns_voidWafer (s : State) (p : PortId) (i : SlotId) (x : Byte) (q : PortId) :
    ((s.voidWafer p i x).port q).touchdowns = if q = p then
      (if (s.port p).touchdowns.head?.any (fun e => e.handle == x) then
        ((s.port p).touchdowns.filter fun e => e.handle != x).dropWhile Entry.sealed
      else (s.port p).touchdowns.filter fun e => e.handle != x) else (s.port q).touchdowns := by
  have removed : ∀ f, (((s.withWafer i f).setTouchdowns p ((s.port p).touchdowns.filter fun e => e.handle != x)).port q).touchdowns =
      if q = p then (s.port p).touchdowns.filter (fun e => e.handle != x) else (s.port q).touchdowns := fun f => by
    rw [State.setTouchdowns, State.port_withPort]
    split <;> rfl
  unfold State.voidWafer
  dsimp only
  split
  · rw [State.touchdowns_runPass, removed, State.setTouchdowns, State.port_withPort_self]
    split <;> rfl
  · exact removed _

/-- A wafer's entries leave its head's list. -/
theorem State.Heads.withdraw (h : s.Heads X) (p : PortId) (i : SlotId) :
    (s.setTouchdowns p ((s.port p).touchdowns.filter fun e => e.handle != s.handleOf i)).Heads fun j => X j ∨ j = i := by
  refine h.setTouchdowns p ((h.list p).sublist List.filter_sublist) (fun j v hv hd hx hp => ?_) fun _ => .inl
  obtain ⟨e, he, hh⟩ := h.drain j v hv hd (fun hxj => hx (.inl hxj)) p hp
  exact ⟨e, List.mem_filter.mpr ⟨he, bne_iff_ne.mpr fun e' => hx (.inr (s.handleOf_injective (hh.symm.trans e')))⟩, hh⟩

/-- A wafer's entries are voided at its head. -/
theorem State.Heads.voidWafer (h : s.Heads X) (p : PortId) (i : SlotId) :
    (s.voidWafer p i (s.handleOf i)).Heads fun j => X j ∨ j = i := by
  have counted : ∀ n, (s.withWafer i fun w => { w with touchdownsVoided := satAdd w.touchdownsVoided n }).Heads X :=
    fun n => ((State.Quiet.refl s).withWafer i _).heads h
  have removed := fun n => (counted n).withdraw p i
  simp only [State.handleOf, State.generation_withWafer] at removed
  unfold State.voidWafer
  dsimp only
  split
  · exact (removed _).runPass p
  · exact removed _

theorem State.not_namedAt_voidWafer (s : State) (p : PortId) (i : SlotId) :
    ¬(s.voidWafer p i (s.handleOf i)).namedAt p i := by
  rintro ⟨e, he, hh⟩
  rw [State.touchdowns_voidWafer, if_pos rfl] at he
  have frame := (State.WorkFrame.refl s).voidWafer p i (s.handleOf i)
  have kept : e ∈ (s.port p).touchdowns.filter fun e => e.handle != s.handleOf i := by
    split at he
    · exact (List.dropWhile_sublist _).subset he
    · exact he
  exact bne_iff_ne.mp (List.mem_filter.mp kept).2 (hh.trans (frame.handleOf i))

theorem State.Lines.front_voidWafer (h : s.Lines) (p : PortId) (i : SlotId) (x : Byte) (q : PortId) :
    FrontOpen ((s.voidWafer p i x).port q).touchdowns := by
  rw [State.touchdowns_voidWafer]
  split
  · split
    · exact frontOpen_dropWhile _
    · next front =>
      refine (h.front p).filter fun e he => bne_iff_ne.mpr fun hx => front ?_
      rw [Option.mem_def.mp he, Option.any_some, beq_iff_eq]
      exact hx
  · exact h.front q

/-! ### The endings of a wafer by the host (R32, R34) -/

/-- An entry's application and what follows it leave the binding of a wafer that the entry does not name. -/
theorem State.binding_passOne (s : State) (p : PortId) {e : Entry} (rest : List Entry) {i : SlotId}
    (hn : s.resolve e.handle ≠ some i) :
    ((s.passOne p e rest).waferAt i).map Wafer.binding = (s.waferAt i).map Wafer.binding := by
  have quiet := (State.Quiet.refl s).applyEntry e
  have same : (((s.applyEntry e).setTouchdowns p rest).waferAt i).map Wafer.binding = (s.waferAt i).map Wafer.binding :=
    quiet.binding i
  unfold State.passOne State.drainClose
  split
  · exact same
  · next j hj =>
    split
    · exact same
    · split
      · rw [State.waferAt_enterClosed, if_neg fun e' => hn ?_]
        · exact same
        · rw [← quiet.resolve, e']
          exact hj
      · exact same

/-- A pass leaves the binding of a wafer that no entry of its list names. -/
theorem State.binding_runPass (s : State) (p : PortId) {i : SlotId}
    (hn : ∀ e ∈ (s.port p).touchdowns, s.resolve e.handle ≠ some i) :
    ((s.runPass p).waferAt i).map Wafer.binding = (s.waferAt i).map Wafer.binding := by
  refine (State.pass_induction (P := fun u => s.WorkFrame u ∧ (∀ e ∈ (u.port p).touchdowns, s.resolve e.handle ≠ some i) ∧
    (u.waferAt i).map Wafer.binding = (s.waferAt i).map Wafer.binding) p ?_ _ s rfl ⟨.refl s, hn, rfl⟩).2.2
  rintro u e rest ⟨frame, unnamed, same⟩ hu -
  rw [hu] at unnamed
  refine ⟨frame.trans (((State.WorkFrame.refl u).applyEntry e).setTouchdowns p rest |>.drainClose e.handle rest), ?_, ?_⟩
  · rw [State.touchdowns_passOne, if_pos rfl]
    exact fun e' he' => unnamed e' (List.mem_cons_of_mem _ he')
  · rw [State.binding_passOne _ _ _ (by rw [frame.resolve]; exact unnamed e List.mem_cons_self)]
    exact same

/-- The wafer whose entries are voided stays bound as it was. -/
theorem State.binding_voidWafer (s : State) (p : PortId) (i : SlotId) :
    ((s.voidWafer p i (s.handleOf i)).waferAt i).map Wafer.binding = (s.waferAt i).map Wafer.binding := by
  have counted : ∀ n, (((s.withWafer i fun w => { w with touchdownsVoided := satAdd w.touchdownsVoided n }).setTouchdowns p
      ((s.port p).touchdowns.filter fun e => e.handle != s.handleOf i)).waferAt i).map Wafer.binding =
      (s.waferAt i).map Wafer.binding := fun n => ((State.Quiet.refl s).withWafer i _).binding i
  unfold State.voidWafer
  dsimp only
  split
  · rw [State.binding_runPass _ _ fun e he hr => ?_]
    · exact counted _
    · rw [State.setTouchdowns, State.port_withPort_self] at he
      exact bne_iff_ne.mp (List.mem_filter.mp he).2
        ((State.handleOf_resolve hr).symm.trans (((State.WorkFrame.refl s).withWafer i _).handleOf i))
  · exact counted _

theorem State.queueOutIfUp_eq (s : State) (p : PortId) (f : HeadOut) :
    s.queueOutIfUp p f = s ∨ (s.port p).session = .up ∧ s.queueOutIfUp p f = s.queueOut p f := by
  unfold State.queueOutIfUp
  split
  · next up => exact .inr ⟨up, rfl⟩
  · exact .inl rfl

/-- A wafer's entries are voided, its head is told, and it enters CLOSED or ABANDONED. -/
theorem State.Lines.hostEnding (h : s.Lines) {i : SlotId} {w : Wafer} (hw : s.waferAt i = some w)
    (hb : w.state.isBound = true) {f : Wafer → Wafer} (hf : ∀ v, (f v).unbound) {enter : State → State}
    (quiet : ∀ {u : State} {v}, u.waferAt i = some v →
      ((u.withWafer i f).dropAssignAt v.boundPort (u.handleOf i)).Quiet (enter u)) :
    (enter (s.endTouchdowns i w (s.handleOf i))).Lines := by
  obtain ⟨p, hp⟩ := (h.heads.binding.bound_iff hw).mp hb
  have ends : s.endTouchdowns i w (s.handleOf i) =
      (s.voidWafer p i (s.handleOf i)).queueOutIfUp p (.cancel (s.handleOf i)) := by
    unfold State.endTouchdowns
    rw [hp]
  have frame := (State.WorkFrame.refl s).voidWafer p i (s.handleOf i)
  have voided := h.heads.voidWafer p i
  have front := h.front_voidWafer p i (s.handleOf i)
  have unnamed := s.not_namedAt_voidWafer p i
  have binding := s.binding_voidWafer p i
  have line := fun q => frame.line (h.line q)
  have notices := State.NoticesFit.voidWafer h.notices p i (s.handleOf i)
  rw [hw] at binding
  have handle := frame.handleOf i
  rw [ends]
  generalize s.voidWafer p i (s.handleOf i) = m at *
  rw [← handle]
  obtain ⟨v, hv, hvw⟩ := Option.map_eq_some_iff.mp binding
  obtain ⟨hvs, hvp⟩ := Prod.mk.inj hvw
  have queued := (State.WorkFrame.refl m).queueOutIfUp p (.cancel (m.handleOf i))
  have touchdowns : ∀ q, ((m.queueOutIfUp p (.cancel (m.handleOf i))).port q).touchdowns = (m.port q).touchdowns := fun q => by
    unfold State.queueOutIfUp State.queueOut
    split
    · rw [State.port_withPort]
      split <;> rfl
    · rfl
  have wafer : (m.queueOutIfUp p (.cancel (m.handleOf i))).waferAt i = some v := by
    rw [← hv]
    unfold State.queueOutIfUp
    split <;> rfl
  have ending : m.ending (m.queueOutIfUp p (.cancel (m.handleOf i))) i v := by
    rcases m.queueOutIfUp_eq p (.cancel (m.handleOf i)) with e | ⟨up, e⟩
    · exact .inl e
    · exact .inr ⟨p, hvp.trans hp, up, e⟩
  have q := quiet wafer
  rw [queued.handleOf] at q
  have released := voided.release hv (hvs ▸ hb) (fun r hr => Option.some.inj ((hvp.trans hp).symm.trans hr) ▸ unnamed) (hf v)
    ending
  refine ⟨(q.heads released).mono fun j hj => (hj.1.resolve_right hj.2).elim, fun r => ?_, fun r => q.line r ?_,
    q.notices (((notices.queueOutIfUp p _).withWafer i f).dropAssignAt _ _), ?_⟩
  · rw [q.touchdowns, State.port_dropAssignAt]
    have : FrontOpen ((m.queueOutIfUp p (.cancel (m.handleOf i))).port r).touchdowns := by rw [touchdowns]; exact front r
    split <;> exact this
  · exact ((State.WorkFrame.refl _).dropAssignAt _ _).line (queued.line (line r))
  · rw [q.host, ((State.WorkFrame.refl _).dropAssignAt _ _).host, State.withWafer_host, queued.host, frame.host]
    exact h.host

/-! ### The loss of a head (R28, R60, R158) -/

/-- What a loss makes of a wafer's binding. -/
theorem Wafer.afterLoss_cases (p : PortId) (n : Nat) (w : Wafer) :
    (w.boundPort = some p ∧ ((w.state = .draining ∧ (w.afterLoss p n).unbound) ∨
      (w.state = .active ∧ (w.afterLoss p n).state = .suspended ∧ (w.afterLoss p n).boundPort = some p) ∨
      (w.state ≠ .draining ∧ w.state ≠ .active ∧ (w.afterLoss p n).binding = w.binding))) ∨
    (w.boundPort ≠ some p ∧ (w.afterLoss p n).binding = w.binding) := by
  unfold Wafer.afterLoss
  by_cases hp : w.boundPort = some p
  · refine .inl ⟨hp, ?_⟩
    by_cases hd : w.state = .draining
    · exact .inl ⟨hd, by rw [if_pos ⟨hd, hp⟩]; exact ⟨rfl, rfl⟩⟩
    · by_cases ha : w.state = .active
      · exact .inr (.inl ⟨ha, by rw [if_neg (fun h => hd h.1), if_pos ⟨ha, hp⟩]; exact ⟨rfl, hp⟩⟩)
      · exact .inr (.inr ⟨hd, ha, by rw [if_neg (fun h => hd h.1), if_neg (fun h => ha h.1)]; rfl⟩)
  · exact .inr ⟨hp, by rw [if_neg (fun h => hp h.2), if_neg (fun h => hp h.2)]; rfl⟩

theorem Wafer.afterLoss_grid (p : PortId) (n : Nat) (w : Wafer) :
    (w.afterLoss p n).rows = w.rows ∧ (w.afterLoss p n).columns = w.columns := by
  unfold Wafer.afterLoss
  dsimp only
  split
  · exact ⟨rfl, rfl⟩
  · split <;> exact ⟨rfl, rfl⟩

/-- A wafer bound after a loss was bound to the same port, and of the same of the two kinds of R40. -/
theorem Wafer.afterLoss_bound {p q : PortId} {n : Nat} {w : Wafer} (h : (w.afterLoss p n).boundPort = some q) :
    w.boundPort = some q ∧ ((w.afterLoss p n).live → w.live) ∧
    ((w.afterLoss p n).state = .draining → w.state = .draining) := by
  rcases w.afterLoss_cases p n with ⟨hp, ⟨-, hu⟩ | ⟨ha, hs, hb⟩ | ⟨-, -, hb⟩⟩ | ⟨-, hb⟩
  · rw [hu.2] at h
    cases h
  · exact ⟨hp.trans (hb.symm.trans h), fun _ => .inl ha, fun hd => by rw [hs] at hd; cases hd⟩
  all_goals
    obtain ⟨hs, hq⟩ := Prod.mk.inj hb
    exact ⟨hq ▸ h, fun hl => by unfold Wafer.live at hl ⊢; rw [hs] at hl; exact hl, fun hd => hs ▸ hd⟩

/-- A wafer that is not bound to the port keeps its binding through a loss. -/
theorem Wafer.afterLoss_other {p : PortId} {w : Wafer} (h : w.boundPort ≠ some p) (n : Nat) :
    (w.afterLoss p n).binding = w.binding := by
  rcases w.afterLoss_cases p n with ⟨hp, -⟩ | ⟨-, hb⟩
  · exact (h hp).elim
  · exact hb

/-- A wafer bound to the port is SUSPENDED after its loss, or unbound. -/
theorem Wafer.afterLoss_here {p : PortId} {n : Nat} {w : Wafer} (hb : w.state.isBound = w.boundPort.isSome)
    (h : (w.afterLoss p n).boundPort = some p) : (w.afterLoss p n).state = .suspended := by
  rcases w.afterLoss_cases p n with ⟨hp, ⟨-, hu⟩ | ⟨-, hs, -⟩ | ⟨hd, ha, hsame⟩⟩ | ⟨hn, hsame⟩
  · rw [hu.2] at h
    cases h
  · exact hs
  · rw [hp] at hb
    rcases (WaferState.isBound_iff _).mp hb with e | e | e
    · exact (ha e).elim
    · exact (hd e).elim
    · exact (Prod.mk.inj hsame).1.trans e
  · exact (hn ((Prod.mk.inj hsame).2 ▸ h)).elim

theorem State.port_lose_self (s : State) (p : PortId) (cause : LossCause) :
    ((s.lose p cause).port p).outbound = [] ∧ ((s.lose p cause).port p).touchdowns = [] ∧
    ((s.lose p cause).port p).session = if cause = .disabled then .disabled else .lost cause := by
  classical
  rw [State.port_lose, Port.endSession_eq]
  exact ⟨rfl, rfl, rfl⟩

theorem State.lineLaw_lose {cause : LossCause} (h : (s.port p).Ranges)
    (hd : cause = .disabled ↔ (s.port p).settings.divisor = 0) : ((s.lose p cause).port p).LineLaw := by
  classical
  rw [State.port_lose]
  refine Port.Ranges.endSession ?_ hd
  exact ⟨h.rx, h.taken, h.discarded, h.overruns, h.sites⟩

theorem State.BindingLaw.lose (h : s.BindingLaw) (p : PortId) (cause : LossCause) : (s.lose p cause).BindingLaw := by
  have back : ∀ {i v}, (s.lose p cause).waferAt i = some v → ∃ n w, s.waferAt i = some w ∧ v = w.afterLoss p n :=
    fun {i v} hv => by
      rw [State.waferAt_lose] at hv
      obtain ⟨w, hw, e⟩ := Option.map_eq_some_iff.mp hv
      exact ⟨_, w, hw, e.symm⟩
  refine ⟨fun i v hv => ?_, fun i v hv q hq hs => ?_, fun i j u hu v hv huv hsome hr => ?_⟩
  · obtain ⟨n, w, hw, rfl⟩ := back hv
    have bound := h.1 i w hw
    rcases w.afterLoss_cases p n with ⟨hp, ⟨-, hu⟩ | ⟨-, hs, hb⟩ | ⟨-, -, hb⟩⟩ | ⟨-, hb⟩
    · rw [hu.1, hu.2]; rfl
    · rw [hs, hb]; rfl
    all_goals
      obtain ⟨hs, hq⟩ := Prod.mk.inj hb
      rw [hs, hq]
      exact bound
  · obtain ⟨n, w, hw, rfl⟩ := back hv
    by_cases hqp : q = p
    · subst hqp
      exact (hs (Wafer.afterLoss_here (h.1 i w hw) hq)).elim
    · have wq := (Wafer.afterLoss_bound hq).1
      have same := Wafer.afterLoss_other (p := p) (fun e => hqp (Option.some.inj (wq.symm.trans e))) n
      rw [State.port_lose_ne _ hqp]
      exact h.up hw wq fun e => hs ((Prod.mk.inj same).1.trans e)
  · obtain ⟨q, uq⟩ := Option.isSome_iff_exists.mp hsome
    have vq : v.boundPort = some q := huv.symm.trans uq
    obtain ⟨n, w, hw, rfl⟩ := back hu
    obtain ⟨m, x, hx, rfl⟩ := back hv
    obtain ⟨wq, wl, wd⟩ := Wafer.afterLoss_bound uq
    obtain ⟨xq, xl, xd⟩ := Wafer.afterLoss_bound vq
    exact h.unique hw hx wq xq (hr.imp (fun ⟨a, b⟩ => ⟨wl a, xl b⟩) fun ⟨a, b⟩ => ⟨wd a, xd b⟩)

theorem State.handleOf_lose (s : State) (p : PortId) (cause : LossCause) (i : SlotId) :
    (s.lose p cause).handleOf i = s.handleOf i := by
  rw [State.handleOf, State.generation_lose, State.handleOf]

theorem State.resolve_lose (s : State) (p : PortId) (cause : LossCause) (x : Byte) :
    (s.lose p cause).resolve x = s.resolve x := by
  unfold State.resolve
  simp only [State.waferAt_lose, State.generation_lose, Option.isSome_map]

theorem State.bins_lose (s : State) (p : PortId) (cause : LossCause) : (s.lose p cause).bins = s.bins := by
  have frozen := s.frozen_lose p cause
  generalize s.lose p cause = t at *
  simp only [State.frozen, Prod.mk.injEq] at frozen
  exact frozen.1.2.1

theorem State.host_lose (s : State) (p : PortId) (cause : LossCause) : (s.lose p cause).host = s.host := by
  have frozen := s.frozen_lose p cause
  generalize s.lose p cause = t at *
  simp only [State.frozen, Prod.mk.injEq] at frozen
  exact frozen.1.2.2.2.1

theorem State.Heads.lose (h : s.Heads X) (p : PortId) (cause : LossCause) : (s.lose p cause).Heads X := by
  obtain ⟨out, list, -⟩ := s.port_lose_self p cause
  have other : ∀ {q i w}, q ≠ p → s.waferAt i = some w → w.boundPort = some q →
      (s.lose p cause).waferAt i = some (w.afterLoss p (s.naming (s.port p).touchdowns i)) ∧
      (w.afterLoss p (s.naming (s.port p).touchdowns i)).binding = w.binding := fun {q i w} hq hw hwq =>
    ⟨by rw [State.waferAt_lose, hw]; rfl,
      Wafer.afterLoss_other (fun e => hq (Option.some.inj (hwq.symm.trans e))) _⟩
  have bound : ∀ {q}, q ≠ p → ∀ i, (s.lose p cause).boundAt q i = s.boundAt q i := fun {q} hq i => by
    refine Bool.eq_iff_iff.mpr ⟨fun hb => ?_, fun hb => ?_⟩
    · obtain ⟨v, hv, hvb, hvq⟩ := State.boundAt_iff.mp hb
      rw [State.waferAt_lose] at hv
      obtain ⟨w, hw, rfl⟩ := Option.map_eq_some_iff.mp hv
      have wq := (Wafer.afterLoss_bound hvq).1
      exact State.boundAt_iff.mpr ⟨w, hw, h.binding.isBound hw wq, wq⟩
    · obtain ⟨w, hw, hwb, hwq⟩ := State.boundAt_iff.mp hb
      obtain ⟨hv, hb⟩ := other hq hw hwq
      obtain ⟨hs, hp⟩ := Prod.mk.inj hb
      exact State.boundAt_iff.mpr ⟨_, hv, hs ▸ hwb, hp.trans hwq⟩
  refine ⟨h.binding.lose p cause, fun q => ?_, fun q => ?_, fun q => ?_, fun i v hv hs hx q hq => ?_⟩
  · by_cases hq : q = p
    · rw [hq, out]
      exact .nil
    · rw [State.port_lose_ne _ hq]
      exact (h.queue q).congr (bound hq) fun i _ => s.handleOf_lose p cause i
  · by_cases hq : q = p
    · rw [hq]
      exact fun _ => out
    · rw [State.port_lose_ne _ hq]
      exact h.off q
  · by_cases hq : q = p
    · rw [hq, list]
      exact ⟨Nat.zero_le 4, List.nodup_nil, fun e he => (List.not_mem_nil he).elim⟩
    · rw [State.port_lose_ne _ hq]
      have same : (s.lose p cause).binClass = s.binClass := by unfold State.binClass; rw [State.bins_lose]
      refine ⟨(h.list q).room, (h.list q).tags, fun e he => ((h.list q).entries e he).carry same fun i w hi hw hwq hs => ?_⟩
      obtain ⟨hv, hb⟩ := other hq hw hwq
      obtain ⟨hvs, hvq⟩ := Prod.mk.inj hb
      obtain ⟨rows, columns⟩ := Wafer.afterLoss_grid p (s.naming (s.port p).touchdowns i) w
      exact ⟨(s.resolve_lose p cause _).trans hi, _, hv, hvq.trans hwq, hvs ▸ hs, rows, columns⟩
  · rw [State.waferAt_lose] at hv
    obtain ⟨w, hw, rfl⟩ := Option.map_eq_some_iff.mp hv
    obtain ⟨wq, -, wd⟩ := Wafer.afterLoss_bound hq
    have hqp : q ≠ p := fun e => by
      subst e
      rw [Wafer.afterLoss_here (h.binding.1 i w hw) hq] at hs
      cases hs
    unfold State.namedAt
    rw [State.port_lose_ne _ hqp, State.handleOf_lose]
    exact h.drain i w hw (wd hs) hx q wq

/-- The loss of a head keeps the laws, where its settings ask for the session it leaves; of the head's own line its
ranges are enough. -/
theorem State.Heads.lines_lose (h : s.Heads fun _ => False) (front : ∀ q, FrontOpen (s.port q).touchdowns)
    (others : ∀ q, q ≠ p → (s.port q).LineLaw) (ranges : (s.port p).Ranges) (notices : s.NoticesFit) (host : s.host.Law)
    {cause : LossCause}
    (hd : cause = .disabled ↔ (s.port p).settings.divisor = 0) : (s.lose p cause).Lines := by
  obtain ⟨-, list, -⟩ := s.port_lose_self p cause
  refine ⟨h.lose p cause, fun q => ?_, fun q => ?_, notices.lose p cause,
    by rw [State.host_lose]; exact host⟩ <;> by_cases hq : q = p
  · rw [hq, list]
    exact fun e he => by cases he
  · rw [State.port_lose_ne _ hq]
    exact front q
  · rw [hq]
    exact State.lineLaw_lose ranges hd
  · rw [State.port_lose_ne _ hq]
    exact others q hq

/-- A head whose session is UP is lost with a cause other than DISABLED. -/
theorem State.Lines.lose (h : s.Lines) (on : (s.port p).session ≠ .disabled) {cause : LossCause} (hc : cause ≠ .disabled) :
    (s.lose p cause).Lines :=
  h.heads.lines_lose h.front (fun q _ => h.line q) (h.line p).toRanges h.notices h.host
    (iff_of_false hc fun hz => on ((h.line p).divisor.mpr hz))

end

end Sys2Proof.Machine
end

section
/-! PROOFS. What every head frame keeps of the laws of the lines (R24, R30, R45 to R55, R148 to R154; for O9, O11,
O12). -/
namespace Sys2Proof.Machine

section
variable {X : SlotId → Prop} {s t : State} {p : PortId}

/-- What keeps the law of the heads, every list and every line keeps all the laws. -/
theorem State.Lines.rebound (h : s.Lines) (heads : t.Heads fun _ => False)
    (still : ∀ q, (t.port q).still = (s.port q).still)
    (touchdowns : ∀ q, (t.port q).touchdowns = (s.port q).touchdowns)
    (notices : s.NoticesFit → t.NoticesFit := by exact id) (host : t.host = s.host := by rfl) : t.Lines :=
  ⟨heads, fun q => by rw [touchdowns]; exact h.front q, fun q => (h.line q).still (still q), notices h.notices,
    by rw [host]; exact h.host⟩

theorem State.Lines.work (h : s.Lines) (heads : t.Heads fun _ => False) (frame : s.WorkFrame t)
    (touchdowns : ∀ q, (t.port q).touchdowns = (s.port q).touchdowns)
    (notices : s.NoticesFit → t.NoticesFit := by exact id) : t.Lines :=
  h.rebound heads frame.ports touchdowns notices frame.host

theorem State.Lines.withPort (h : s.Lines) {f : Port → Port} (heads : (s.withPort p f).Heads fun _ => False)
    (touchdowns : (f (s.port p)).touchdowns = (s.port p).touchdowns) (line : (f (s.port p)).LineLaw) :
    (s.withPort p f).Lines := by
  refine ⟨heads, fun q => ?_, fun q => ?_, h.notices, h.host⟩ <;> rw [State.port_withPort] <;> split
  · next e => rw [e, touchdowns]; exact h.front p
  · exact h.front q
  · next e => rw [e]; exact line
  · exact h.line q

theorem State.touchdowns_queueOut (s : State) (p : PortId) (f : HeadOut) (q : PortId) :
    ((s.queueOut p f).port q).touchdowns = (s.port q).touchdowns := by
  rw [State.queueOut, State.port_withPort]
  split <;> rfl

/-- No more than two answers wait for the head. -/
def State.roomFor (s : State) (p : PortId) : Prop := ((s.port p).outbound.filter HeadOut.isAnswer).length ≤ 2

theorem State.roomFor_of_length (h : (s.port p).outbound.length ≤ 2) : s.roomFor p :=
  (List.length_filter_le _ _).trans h

theorem State.Quiet.roomFor (q : s.Quiet t) (h : s.roomFor p) : t.roomFor p := by
  have kept : ∀ f : HeadOut, f.isAnswer = true → (!f.isHoldFrame) = true := fun f hf => HeadOut.not_isHoldFrame (.inl hf)
  unfold State.roomFor
  rw [filter_of_filter kept, (q.outbound p).1, ← filter_of_filter kept]
  exact h

/-- An answer is queued. -/
theorem State.Lines.answer (h : s.Lines) (on : (s.port p).session ≠ .disabled) (room : s.roomFor p) {f : HeadOut}
    (hf : f.isAnswer = true) : (s.queueOut p f).Lines :=
  h.work (h.heads.answer on room hf) ((State.WorkFrame.refl s).queueOut p f) (s.touchdowns_queueOut p f)

/-- What an owner of a head frame may count on: the session is UP, and the queue has room for its answer. -/
structure State.Taken (s : State) (p : PortId) : Prop where
  lines : s.Lines
  up : (s.port p).session = .up
  room : s.roomFor p

theorem State.Taken.on (h : s.Taken p) : (s.port p).session ≠ .disabled := fun hd =>
  Session.noConfusion (h.up.symm.trans hd)

theorem State.Taken.refuse (h : s.Taken p) (k : Byte) (r : RefuseReason) (a b : Byte) : (s.refuseFrame p k r a b).Lines :=
  h.lines.answer h.on h.room rfl

/-- A frame of another kind than ANNOUNCE, whatever its owner makes of it. -/
theorem State.Lines.takeHead (h : s.Lines) (p : PortId) (k : Byte) {owner : State → List Byte → State}
    (ho : ∀ (u : State) bs, u.Taken p → (owner u bs).Lines) : (s.takeHead p k owner).Lines := by
  unfold State.takeHead
  split
  · next f rest hr =>
    obtain ⟨-, on, room⟩ := Port.ready_eq_some hr
    have quiet := (State.Quiet.refl s).takeFrame hr k
    split
    · have taken := h.quiet quiet
      have free := quiet.roomFor (State.roomFor_of_length room)
      dsimp only
      split
      · next up => exact ho _ _ ⟨taken, (quiet.session p).trans up, free⟩
      · exact taken.answer (by rw [quiet.session]; exact on) free rfl
    · exact h
  · exact h

theorem State.Taken.beat (h : s.Taken p) (bs : List Byte) : (State.beat p s bs).Lines := by
  unfold State.beat
  split
  · exact h.lines
  · exact h.refuse _ _ _ _

/-! ### TOUCH (R45 to R50) -/

theorem hasRepeat_eq_false {α : Type} [DecidableEq α] {l : List α} (h : hasRepeat l = false) : l.Nodup := by
  induction l with
  | nil => exact List.nodup_nil
  | cons x l ih =>
    obtain ⟨hx, hl⟩ := Bool.or_eq_false_iff.mp h
    exact List.nodup_cons.mpr ⟨fun hm => Bool.eq_false_iff.mp hx (List.contains_iff_mem.mpr hm), ih hl⟩

theorem State.activeOn_eq_some {h : Byte} {w : Wafer} (ha : s.activeOn p h = some w) :
    ∃ i, s.resolve h = some i ∧ s.waferAt i = some w ∧ w.state = .active ∧ w.boundPort = some p := by
  unfold State.activeOn at ha
  split at ha
  · next v hv =>
    obtain ⟨i, hi, hw⟩ := Option.bind_eq_some_iff.mp hv
    split at ha
    · next hc => exact ⟨i, hi, Option.some.inj ha ▸ hw, Option.some.inj ha ▸ hc⟩
    · cases ha
  · cases ha

/-- What the checks of an accepted TOUCH have found (Table 3-2). -/
theorem State.touchReason_accepted {h tag : Byte} {k : Nat} {ds : List RawSite}
    (ha : s.touchReason p h tag k ds = .accepted) : ∃ w, s.activeOn p h = some w ∧ (s.port p).touchdowns.length < 4 ∧
      (s.port p).touchdowns.any (fun e => e.tag == tag) = false ∧ badSites (s.port p).maxSites w k ds = false ∧
      dupDies ds = false := by
  unfold State.touchReason at ha
  split at ha
  · cases ha
  · next w hw =>
    split_ifs at ha with _ full dup bad die
    exact ⟨w, hw, Nat.lt_of_not_le full, Bool.eq_false_iff.mpr dup, Bool.eq_false_iff.mpr bad, Bool.eq_false_iff.mpr die⟩

/-- The sites of a TOUCH that passes R49's check. -/
theorem badSites_eq_false {n : Nat} {w : Wafer} {k : Nat} {ds : List RawSite} (h : badSites n w k ds = false) :
    k ≠ 0 ∧ k ≤ n ∧ (∀ d ∈ ds, d.number ≤ 15) ∧ (ds.map (·.number)).Nodup ∧
      ∀ d ∈ ds, d.column < w.columns ∧ d.row < w.rows := by
  simp only [badSites, Bool.or_eq_false_iff] at h
  obtain ⟨⟨⟨⟨hk, hn⟩, hnum⟩, hrep⟩, hgrid⟩ := h
  refine ⟨fun h0 => ?_, ?_, fun d hd => ?_, hasRepeat_eq_false hrep, fun d hd => ?_⟩
  · rw [h0] at hk; cases hk
  · simpa using hn
  · simpa using List.any_eq_false.mp hnum d hd
  · simpa using List.any_eq_false.mp hgrid d hd

/-- The entry of an accepted TOUCH keeps the law of entries (R42, R49). -/
theorem State.entryLaw_new {h tag : Byte} {ds : List RawSite} {k : Nat} (len : ds.length = k)
    (sites : (s.port p).maxSites ≤ 16) (ha : s.touchReason p h tag k ds = .accepted) : s.EntryLaw p (newEntry h tag ds) := by
  obtain ⟨w, hact, -, -, bad, die⟩ := State.touchReason_accepted ha
  obtain ⟨i, hi, hw, hs, hp⟩ := State.activeOn_eq_some hact
  obtain ⟨k0, kn, numbers, distinct, grid⟩ := badSites_eq_false bad
  have length : (newEntry h tag ds).sites.length = k := (List.length_map _).trans len
  refine ⟨⟨i, hi, w, hw, hp, .inl hs, fun d hd => ?_⟩, ?_, ?_, ?_, ?_⟩
  · obtain ⟨r, hr, rfl⟩ := List.mem_map.mp hd
    obtain ⟨hc, hrow⟩ := grid r hr
    exact ⟨hc, hrow, fun r hr => (Option.not_mem_none r hr).elim⟩
  · rw [length]; exact Nat.pos_of_ne_zero k0
  · rw [length]; exact kn.trans sites
  · show ((ds.map fun d => (⟨Fin.ofNat 16 d.number, d.column, d.row, none⟩ : SiteEntry)).map (·.number)).Nodup
    rw [List.map_map]
    refine (List.nodup_map_iff_inj_on (List.Nodup.of_map _ distinct)).mpr fun a ha b hb hab => ?_
    have same := congrArg Fin.val hab
    simp only [Function.comp, Fin.val_ofNat] at same
    rw [Nat.mod_eq_of_lt (Nat.lt_succ_of_le (numbers a ha)), Nat.mod_eq_of_lt (Nat.lt_succ_of_le (numbers b hb))] at same
    exact List.inj_on_of_nodup_map distinct ha hb same
  · show ((ds.map fun d => (⟨Fin.ofNat 16 d.number, d.column, d.row, none⟩ : SiteEntry)).map
      fun d => (d.column, d.row)).Nodup
    rw [List.map_map]
    exact hasRepeat_eq_false die

theorem FrontOpen.append {es : List Entry} (h : FrontOpen es) {e : Entry} (he : e.state = .isOpen) : FrontOpen (es ++ [e]) := by
  cases es with
  | nil => exact fun x hx => Option.some.inj hx ▸ he
  | cons a es => exact h

/-- A head's list is replaced, and its front is OPEN. -/
theorem State.Lines.setTouchdowns (h : s.Lines) (p : PortId) {es : List Entry} (list : s.ListLaw p es)
    (front : FrontOpen es)
    (drain : ∀ i, s.namedAt p i → ∃ e ∈ es, e.handle = s.handleOf i) : (s.setTouchdowns p es).Lines := by
  refine ⟨h.heads.setTouchdowns p list (fun i w hw hd hx hp => drain i (h.heads.drain i w hw hd hx p hp)) fun _ => id,
    fun q => ?_, fun q => ((State.WorkFrame.refl s).setTouchdowns p es).line (h.line q), h.notices, h.host⟩
  rw [State.setTouchdowns, State.port_withPort]
  split
  · exact front
  · exact h.front q

theorem State.Taken.touch (h : s.Taken p) (bs : List Byte) : (State.touch p s bs).Lines := by
  unfold State.touch
  dsimp only
  split
  · exact h.refuse _ _ _ _
  · split
    · next ha =>
      obtain ⟨w, -, room, tags, -, -⟩ := State.touchReason_accepted ha
      have entry := State.entryLaw_new (by rw [readSites, List.length_map, List.length_range])
        (h.lines.line p).sites ha
      have old := h.lines.heads.list p
      have listed : (s.setTouchdowns p ((s.port p).touchdowns ++
          [newEntry (charAt bs 0) (charAt bs 1) (readSites bs (read1 bs 2))])).Lines := by
        refine h.lines.setTouchdowns p ⟨?_, ?_, fun e he => ?_⟩ ((h.lines.front p).append rfl) fun i ⟨e, he, hh⟩ =>
          ⟨e, List.mem_append_left _ he, hh⟩
        · rw [List.length_append]
          exact room
        · rw [List.map_append]
          refine List.nodup_append.mpr ⟨old.tags, List.nodup_singleton _, fun a ha b hb => ?_⟩
          obtain ⟨e, he, rfl⟩ := List.mem_map.mp ha
          rw [List.mem_singleton.mp hb]
          exact fun same => List.any_eq_false.mp tags e he (beq_iff_eq.mpr same)
        · rcases List.mem_append.mp he with he | he
          · exact old.entries e he
          · exact List.mem_singleton.mp he ▸ entry
      refine listed.answer ?_ ?_ rfl
      · rw [State.setTouchdowns, State.port_withPort_self]
        exact h.on
      · unfold State.roomFor
        rw [State.setTouchdowns, State.port_withPort_self]
        exact h.room
    · exact h.lines.answer h.on h.room rfl

/-! ### SITE and LIFT (R51 to R53, R55) -/

/-- A change of entries that keeps what names them and every site's number and die. -/
structure Entry.Alike (e d : Entry) : Prop where
  tag : d.tag = e.tag
  handle : d.handle = e.handle
  sites : d.sites.map (fun x => (x.number, x.column, x.row)) = e.sites.map fun x => (x.number, x.column, x.row)

theorem State.EntryLaw.alike {e d : Entry} (h : s.EntryLaw p e) (ha : e.Alike d)
    (results : ∀ x ∈ d.sites, ∀ r ∈ x.result, r = 0 ∨ s.binClass r ≠ .unused) : s.EntryLaw p d := by
  obtain ⟨⟨i, hi, w, hw, hp, hs, sites⟩, h1, h16, numbers, dies⟩ := h
  have length : d.sites.length = e.sites.length := by
    have := congrArg List.length ha.sites
    rwa [List.length_map, List.length_map] at this
  have number : d.sites.map (·.number) = e.sites.map (·.number) := by
    have := congrArg (List.map Prod.fst) ha.sites
    rwa [List.map_map, List.map_map] at this
  have die : d.sites.map (fun x => (x.column, x.row)) = e.sites.map fun x => (x.column, x.row) := by
    have := congrArg (List.map Prod.snd) ha.sites
    rwa [List.map_map, List.map_map] at this
  refine ⟨⟨i, ha.handle ▸ hi, w, hw, hp, hs, fun x hx => ?_⟩, length ▸ h1, length ▸ h16, number ▸ numbers, die ▸ dies⟩
  have mem : (x.column, x.row) ∈ e.sites.map fun x => (x.column, x.row) :=
    die ▸ List.mem_map_of_mem (f := fun x : SiteEntry => (x.column, x.row)) hx
  obtain ⟨y, hy, same⟩ := List.mem_map.mp mem
  obtain ⟨hc, hr⟩ := Prod.mk.inj same
  exact ⟨hc ▸ (sites y hy).1, hr ▸ (sites y hy).2.1, results x hx⟩

theorem State.EntryLaw.results {e : Entry} (h : s.EntryLaw p e) :
    ∀ x ∈ e.sites, ∀ r ∈ x.result, r = 0 ∨ s.binClass r ≠ .unused := by
  obtain ⟨⟨i, -, w, -, -, -, sites⟩, -⟩ := h
  exact fun x hx => (sites x hx).2.2

theorem State.ListLaw.map {es : List Entry} (h : s.ListLaw p es) {f : Entry → Entry} (hf : ∀ e ∈ es, e.Alike (f e))
    (results : ∀ e ∈ es, ∀ x ∈ (f e).sites, ∀ r ∈ x.result, r = 0 ∨ s.binClass r ≠ .unused) :
    s.ListLaw p (es.map f) := by
  refine ⟨(List.length_map f).trans_le h.room, ?_, fun d hd => ?_⟩
  · have same : (es.map f).map (·.tag) = es.map (·.tag) := by
      rw [List.map_map]
      exact List.map_congr_left fun e he => (hf e he).tag
    rw [same]
    exact h.tags
  · obtain ⟨e, he, rfl⟩ := List.mem_map.mp hd
    exact (h.entries e he).alike (hf e he) (results e he)

theorem Entry.alike_setResult (e : Entry) (n : Nat) (b : Bin) : e.Alike (e.setResult n b) := by
  refine ⟨rfl, rfl, ?_⟩
  show (e.sites.map _).map _ = _
  rw [List.map_map]
  exact List.map_congr_left fun x _ => by
    rw [Function.comp_apply]
    split <;> rfl

/-- A SITE that is not refused has a bin that may be a result (R51). -/
theorem State.binOk_of_siteReason {tag : Byte} {n b : Nat} (h : s.siteReason p tag n b = none) :
    Fin.ofNat 64 b = 0 ∨ s.binClass (Fin.ofNat 64 b) ≠ .unused := by
  have ok : s.binOk b = true := by
    unfold State.siteReason at h
    split at h
    · cases h
    · split at h
      · cases h
      · split at h
        · cases h
        · split_ifs at h with _ ok
          exact ok
  simp only [State.binOk, Bool.and_eq_true, Bool.or_eq_true, beq_iff_eq, bne_iff_ne] at ok
  exact ok.2.imp_left fun h0 => by rw [h0]; rfl

theorem FrontOpen.map {es : List Entry} (h : FrontOpen es) {f : Entry → Entry}
    (hf : ∀ e ∈ es.head?, (f e).state = e.state) : FrontOpen (es.map f) := by
  intro d hd
  rw [List.head?_map] at hd
  obtain ⟨e, he, rfl⟩ := Option.map_eq_some_iff.mp hd
  exact (hf e he).trans (h e he)

theorem State.Taken.site (h : s.Taken p) (bs : List Byte) : (State.site p s bs).Lines := by
  unfold State.site
  dsimp only
  split
  · exact h.refuse _ _ _ _
  · split
    · exact h.refuse _ _ _ _
    · next hr =>
      have ok := State.binOk_of_siteReason hr
      have old := h.lines.heads.list p
      refine h.lines.setTouchdowns p (old.map (fun e _ => ?_) fun e he => ?_) ((h.lines.front p).map fun e _ => ?_) ?_
      · split
        · exact e.alike_setResult _ _
        · exact ⟨rfl, rfl, rfl⟩
      · split
        · intro x hx r hxr
          obtain ⟨y, hy, rfl⟩ := List.mem_map.mp hx
          split at hxr
          · exact Option.some.inj hxr ▸ ok
          · exact (old.entries e he).results y hy r hxr
        · exact (old.entries e he).results
      · split <;> rfl
      · rintro i ⟨e, he, hh⟩
        refine ⟨_, List.mem_map_of_mem he, ?_⟩
        split <;> exact hh

theorem State.ListLaw.seal {es : List Entry} (h : s.ListLaw p es) (tag : Byte) : s.ListLaw p (sealTag es tag) := by
  refine h.map (fun e _ => ?_) fun e he => ?_
  · split <;> exact ⟨rfl, rfl, rfl⟩
  · split <;> exact (h.entries e he).results

theorem State.Heads.seal (h : s.Heads X) (p : PortId) (tag : Byte) :
    (s.setTouchdowns p (sealTag (s.port p).touchdowns tag)).Heads X := by
  refine h.setTouchdowns p ((h.list p).seal tag) (fun i w hw hd hx hp => ?_) fun _ => id
  obtain ⟨e, he, hh⟩ := h.drain i w hw hd hx p hp
  refine ⟨_, List.mem_map_of_mem he, ?_⟩
  split <;> exact hh

theorem State.Taken.lift (h : s.Taken p) (bs : List Byte) : (State.lift p s bs).Lines := by
  have sealed := h.lines.heads.seal p (charAt bs 0)
  unfold State.lift
  dsimp only
  split
  · exact h.refuse _ _ _ _
  · split
    · exact h.refuse _ _ _ _
    · split
      · exact h.refuse _ _ _ _
      · split
        · refine ⟨sealed.runPass p, fun q => ?_, fun q =>
            (((State.WorkFrame.refl s).setTouchdowns p _).runPass p).line (h.lines.line q),
            (h.lines.notices.withPort p _).runPass p, ?_⟩
          rw [State.touchdowns_runPass]
          split
          · exact frontOpen_dropWhile _
          · next hq =>
            rw [State.setTouchdowns, State.port_withPort_ne _ _ hq]
            exact h.lines.front q
          · rw [(((State.WorkFrame.refl s).setTouchdowns p _).runPass p).host]
            exact h.lines.host
        · next front =>
          refine ⟨sealed, fun q => ?_, fun q => ((State.WorkFrame.refl s).setTouchdowns p _).line (h.lines.line q),
            h.lines.notices, h.lines.host⟩
          rw [State.setTouchdowns, State.port_withPort]
          split
          · refine (h.lines.front p).map fun e he => ?_
            rw [if_neg fun same => front ?_]
            rw [Option.mem_def.mp he, Option.any_some]
            exact same
          · exact h.lines.front q

/-! ### UNLOAD (R24) -/

theorem State.Lines.enterClosed (h : s.Lines) {i : SlotId} {w : Wafer} (hw : s.waferAt i = some w)
    (hb : w.state.isBound = true) (unnamed : ∀ p, w.boundPort = some p → ¬s.namedAt p i) (c : CloseCause) :
    (s.enterClosed i c).Lines :=
  h.work ((h.heads.enterClosed hw hb unnamed c).mono fun _ => And.left) ((State.WorkFrame.refl s).enterClosed i c)
    (s.touchdowns_enterClosed i c) fun hn => hn.enterClosed i c

theorem State.Taken.unload (h : s.Taken p) (bs : List Byte) : (State.unload p s bs).Lines := by
  unfold State.unload
  dsimp only
  split
  · exact h.refuse _ _ _ _
  · split
    · next i w hi hact =>
      obtain ⟨j, hj, hw, hs, hp⟩ := State.activeOn_eq_some hact
      obtain rfl : i = j := Option.some.inj (hi.symm.trans hj)
      have handle := State.handleOf_resolve hi
      split
      · next named =>
        split
        · exact h.refuse _ _ _ _
        · next other =>
          obtain ⟨e, he, hh⟩ := List.any_eq_true.mp named
          have drains : (s.withWafer i fun w => { w with state := .draining }).Heads fun _ => False := by
            refine h.lines.heads.restate hw hp h.up (.inr rfl) (fun k hk u hu huq hr => ?_) fun _ =>
              ⟨e, he, (beq_iff_eq.mp hh).trans handle.symm⟩
            rcases hr with ⟨hl, -⟩ | ⟨-, hd⟩
            · rcases hl with hl | hl <;> cases hl
            · refine other (List.any_eq_true.mpr ⟨k, mem_slotIds k, ?_⟩)
              rw [hu, Option.any_some, bne_iff_ne.mpr hk, Bool.true_and, hd, huq]
              simp
          exact h.lines.work ((State.Quiet.refl _).settleLamps.heads drains)
            (.settleLamps ((State.WorkFrame.refl s).withWafer i _)) fun _ => rfl
      · next unnamed =>
        refine h.lines.enterClosed hw (h.lines.heads.binding.isBound hw hp) (fun q hq => ?_) _
        rintro ⟨e, he, hh⟩
        obtain rfl : p = q := Option.some.inj (hp.symm.trans hq)
        exact unnamed (List.any_eq_true.mpr ⟨e, he, beq_iff_eq.mpr (hh.trans handle)⟩)
    · exact h.refuse _ _ _ _

/-! ### ANNOUNCE (R30, R152) -/

theorem State.Lines.startSession (h : s.Lines) (on : (s.port p).session ≠ .disabled) (serial : Word32) {n : Nat}
    (h1 : 1 ≤ n) (hn : n ≤ 16) : (s.withPort p fun q => q.startSession serial n).Lines :=
  h.withPort (h.heads.withPort p _ (fun _ => rfl) (h.heads.queue p) (fun hd => Session.noConfusion hd) (h.heads.list p)
    (fun i w hw hd hx hp => h.heads.drain i w hw hd hx p hp) fun _ => id) rfl ((h.line p).startSession on serial h1 hn)

/-- A SUSPENDED wafer of an UP head becomes ACTIVE. -/
theorem State.Lines.resumeAt (h : s.Lines) (up : (s.port p).session = .up) {i : SlotId} {w : Wafer}
    (hw : s.waferAt i = some w) (hs : w.state = .suspended) (hp : w.boundPort = some p) : (s.resumeAt p i).Lines := by
  have active : (s.withWafer i fun w => { w with state := .active }).Lines := by
    refine h.work (h.heads.restate hw hp up (.inl rfl) (fun j hj u hu huq hr => ?_) fun hd => WaferState.noConfusion hd)
      ((State.WorkFrame.refl s).withWafer i _) fun _ => rfl
    rcases hr with ⟨-, hl⟩ | ⟨hd, -⟩
    · exact hj (h.heads.binding.unique hw hu hp huq (.inl ⟨.inr hs, hl⟩)).symm
    · cases hd
  exact active.quiet ((State.Quiet.refl _).judgeHeld p _ _)

theorem State.Taken.greet (h : s.Taken p) (ms : Nat) (resumed : Option Byte) : (s.greet p ms resumed).Lines := by
  have told := (State.Quiet.refl s).notify (.headUp p resumed)
  have on : ((s.notify (.headUp p resumed)).port p).session ≠ .disabled := by
    rw [told.session]; exact h.on
  have welcomed := (h.lines.quiet told).answer on (told.roomFor h.room)
    (f := .welcome p ms resumed) rfl
  have frame := (State.WorkFrame.refl (s.notify (.headUp p resumed))).queueOut p (.welcome p ms resumed)
  unfold State.greet State.queueHoldAfterWelcome
  split
  · split
    · exact welcomed.work (welcomed.heads.queueHold (by rw [frame.session]; exact on) rfl)
        ((State.WorkFrame.refl _).queueOut p _) (State.touchdowns_queueOut _ _ _)
    · exact welcomed
  · exact welcomed

theorem State.Lines.announceUp (h : s.Lines) (on : (s.port p).session ≠ .disabled) (room : s.roomFor p) (serial : Word32)
    {n : Nat} (h1 : 1 ≤ n) (hn : n ≤ 16) (resume : Option Byte) : (s.announceUp p serial n resume).Lines := by
  have started := h.startSession on serial h1 hn
  have up : ((s.withPort p fun q => q.startSession serial n).port p).session = .up := by
    rw [State.port_withPort_self]; rfl
  have free : (s.withPort p fun q => q.startSession serial n).roomFor p := by
    unfold State.roomFor
    rw [State.port_withPort_self]
    exact room
  rw [State.announceUp_eq]
  dsimp only
  generalize (s.withPort p fun q => q.startSession serial n) = u at *
  split
  · next i hi =>
    obtain ⟨x, -, hx⟩ := Option.bind_eq_some_iff.mp hi
    obtain ⟨w, hw, he⟩ := Option.map_eq_some_iff.mp ((u.resumable_eq_some_iff p serial x i).mp hx).2
    obtain ⟨hs, hrest⟩ := Prod.mk.inj he
    have resumed := started.resumeAt up hw hs (Prod.mk.inj hrest).1
    have judged : (u.withWafer i fun w => { w with state := .active }).Quiet (u.resumeAt p i) :=
      (State.Quiet.refl _).judgeHeld p _ _
    refine State.Lines.quiet ?_ (State.Quiet.refl _).settleLamps
    exact State.Taken.greet ⟨resumed, (judged.session p).trans up, judged.roomFor free⟩ _ _
  · exact State.Lines.quiet (State.Taken.greet ⟨started, up, free⟩ _ _) (State.Quiet.refl _).settleLamps

theorem State.Lines.announce (h : s.Lines) (on : (s.port p).session ≠ .disabled) (room : s.roomFor p) (bs : List Byte) :
    (State.announce p s bs).Lines := by
  unfold State.announce
  split
  · exact h.answer on room rfl
  · next ok =>
    obtain ⟨-, h1, h16⟩ := (announceOk_iff bs).mp (Bool.not_eq_false _ ▸ ok)
    dsimp only
    split
    · next up =>
      obtain ⟨out, -, session⟩ := s.port_lose_self p .restart
      refine (h.lose on LossCause.noConfusion).announceUp ?_ ?_ _ h1 h16 _
      · rw [session]
        exact Session.noConfusion
      · rw [State.roomFor, out]
        exact Nat.zero_le 2
    · exact h.announceUp on room _ h1 h16 _

theorem State.Lines.takeAnnounce (h : s.Lines) (p : PortId) : (s.takeAnnounce p).Lines := by
  unfold State.takeAnnounce
  split
  · next f rest hr =>
    obtain ⟨-, on, room⟩ := Port.ready_eq_some hr
    have quiet := (State.Quiet.refl s).takeFrame hr kindAnnounce
    split
    · exact (h.quiet quiet).announce (by rw [quiet.session]; exact on) (quiet.roomFor (State.roomFor_of_length room)) _
    · exact h
  · exact h

end

end Sys2Proof.Machine
end

section
/-! PROOFS. What every host command, line event, timer and reset keeps of the laws of the lines; the laws of every step
(O9, O11, O12). -/
namespace Sys2Proof.Machine

/-! ### What a command's answer has, by its checks -/

section
variable {P : State → Prop} {s : State}

theorem State.takeHost_keeps {code : Byte} {run : State → List Byte → Answer} (h : P s)
    (pop : ∀ f rest, s.host.intake = f :: rest → P (s.popHost rest)) (hr : ∀ u bs, P u → P (run u bs).1)
    (compose : ∀ (u : State) k bs, P u → P (u.compose k bs)) : P (s.takeHost code run) := by
  unfold State.takeHost
  split
  · next f rest _ hq =>
    split
    · exact compose _ _ _ (hr _ _ (pop f rest hq))
    · exact h
  · exact h

theorem State.withHandle_keeps {x : Byte} {k : SlotId → Wafer → Answer} (h : P s)
    (hk : ∀ i w, s.handleOf i = x → s.waferAt i = some w → P (k i w).1) : P (s.withHandle x k).1 := by
  unfold State.withHandle
  split
  · next i hi =>
    split
    · next w hw => exact hk i w (State.handleOf_resolve hi) hw
    · exact h
  · exact h

theorem State.withLot_keeps {bs : List Byte} {k : LotId → Lot → Answer} (h : P s)
    (hk : ∀ l e, tabGet s.lots l = some e → P (k l e).1) : P (s.withLot bs k).1 := by
  unfold State.withLot
  split
  · exact h
  · split
    · exact h
    · split
      · exact h
      · next e he => exact hk _ e he

end

section
variable {s t : State} {p : PortId}

theorem State.Lines.withHost (h : s.Lines) {q : HostLine} (hq : q.Law) : State.Lines { s with host := q } :=
  ⟨⟨h.heads.binding, h.heads.queue, h.heads.off, fun p =>
    ⟨(h.heads.list p).room, (h.heads.list p).tags, (h.heads.list p).entries⟩, h.heads.drain⟩, h.front, h.line, h.notices, hq⟩

theorem State.Lines.popHost (h : s.Lines) {f : Frame} {rest : List Frame} (hq : s.host.intake = f :: rest) :
    (s.popHost rest).Lines := h.withHost (State.hostLaw_popHost h.host hq)

theorem State.Lines.compose (h : s.Lines) (k : Byte) (bs : List Byte) : (s.compose k bs).Lines :=
  h.withHost { h.host with }

theorem State.Lines.clearCounters (h : s.Lines) :
    State.Lines { s with host := { s.host with overruns := 0, discarded := 0 } } :=
  h.withHost { h.host with discarded := Nat.zero_le _, overruns := Nat.zero_le _ }

/-! ### HEAD_SET and HEAD_DROP (R161 to R164) -/

/-- The settings of a HEAD_SET are stored, and what else becomes of the port is one change. -/
theorem State.withPort_store (s : State) (p : PortId) (l : LineSettings) (f : Port → Port) :
    (((s.withPort p fun q => q.storeTimer l).withPort p fun q => q.storeDivisor l.divisor).withPort p f) =
      s.withPort p fun q => f ((q.storeTimer l).storeDivisor l.divisor) := by
  rw [State.withPort_withPort, State.withPort_withPort]
  rfl

theorem State.Lines.headSet (h : s.Lines) (p : PortId) (l : LineSettings) : (s.headSet p l).Lines := by
  have stored : (s.withPort p fun q => q.storeTimer l).withPort p (fun q => q.storeDivisor l.divisor) =
      s.withPort p fun q => (q.storeTimer l).storeDivisor l.divisor := s.withPort_withPort p _ _
  have line := h.line p
  -- a change of settings that keeps the session is quiet
  have quiet : ∀ f : Port → Port, (f (s.port p)).LineLaw → (f (s.port p)).session = (s.port p).session →
      (f (s.port p)).outbound = (s.port p).outbound → (f (s.port p)).touchdowns = (s.port p).touchdowns →
      (s.withPort p f).Lines := fun f hl hs ho ht =>
    h.quiet ((State.Quiet.refl s).withPort p f (fun _ => hl) hs (.of_eq ho) (fun _ => ho) ht)
  -- a port that was not UP comes to a session that is not UP
  have down : ∀ f : Port → Port, (s.port p).session ≠ .up → (f (s.port p)).LineLaw → (f (s.port p)).outbound = [] →
      (f (s.port p)).touchdowns = (s.port p).touchdowns → (s.withPort p f).Lines := fun f hd hl ho ht =>
    h.withPort (h.heads.withPort p f (fun up => (hd up).elim) (by rw [ho]; exact .nil) (fun _ => ho)
      (by rw [ht]; exact h.heads.list p) (fun i w hw hs hx hp => by rw [ht]; exact h.heads.drain i w hw hs hx p hp)
      fun _ => id) ht hl
  unfold State.headSet
  dsimp only
  split
  · next up =>
    have on : (s.port p).session ≠ .disabled := fun hd => Session.noConfusion (up.symm.trans hd)
    split
    · next hz =>
      rw [stored]
      have other : ∀ q, q ≠ p → (s.withPort p fun q => (q.storeTimer l).storeDivisor l.divisor).port q = s.port q :=
        fun q hq => State.port_withPort_ne _ _ hq
      have here := s.port_withPort_self p fun q => (q.storeTimer l).storeDivisor l.divisor
      refine State.Heads.lines_lose (h.heads.requeue p _ (h.heads.queue p) (h.heads.off p)) (fun q => ?_) (fun q hq => ?_)
        ?_ h.notices h.host ?_
      · rw [State.port_withPort]
        split <;> exact h.front q
      · rw [other q hq]
        exact h.line q
      · rw [here]
        exact ⟨line.rx, line.taken, line.discarded, line.overruns, line.sites⟩
      · rw [here]
        exact iff_of_true rfl hz
    · next hz =>
      split
      · rw [State.withPort_store]
        exact quiet _ (line.storeUp up hz) rfl rfl rfl
      · rw [State.withPort_store]
        exact quiet _ ((line.storeUp up hz).hunt _) rfl rfl rfl
  · next off =>
    have notUp : (s.port p).session ≠ .up := fun hu => Session.noConfusion (off.symm.trans hu)
    split
    · next hz =>
      rw [stored]
      exact quiet _ (line.store notUp (iff_of_true off hz)) rfl rfl rfl
    · next hz =>
      rw [State.withPort_store]
      exact down _ notUp (line.enable off hz) rfl rfl
  all_goals
    next hs =>
    have notUp : (s.port p).session ≠ .up := fun hu => Session.noConfusion (hs.symm.trans hu)
    have on : (s.port p).session ≠ .disabled := fun hd => Session.noConfusion (hs.symm.trans hd)
    split
    · next hz =>
      rw [State.withPort_store]
      exact down _ notUp (line.disable notUp hz) rfl rfl
    · next hz =>
      split
      · rw [stored]
        exact quiet _ (line.store notUp (iff_of_false on hz)) rfl rfl rfl
      · rw [State.withPort_store]
        exact quiet _ ((line.store notUp (iff_of_false on hz)).hunt _) rfl rfl rfl

theorem State.Lines.runHeadSet (h : s.Lines) (bs : List Byte) : (runHeadSet s bs).1.Lines := by
  unfold Machine.runHeadSet
  split
  · exact h
  · split
    · exact h
    · split
      · exact h
      · exact (h.headSet _ _).quiet (State.Quiet.refl _).settleLamps

theorem State.Lines.runHeadStatus (h : s.Lines) (bs : List Byte) : (runHeadStatus s bs).1.Lines := by
  unfold Machine.runHeadStatus
  split
  · exact h
  · split
    · exact h
    · exact h.quiet ((State.Quiet.refl s).withPort _ _ fun hl => hl.clearCounters)

theorem State.Lines.runHeadDrop (h : s.Lines) (bs : List Byte) : (runHeadDrop s bs).1.Lines := by
  unfold Machine.runHeadDrop
  split
  · exact h
  · split
    · exact h
    · split
      · exact h
      · next up =>
        refine State.Lines.lose h (fun hd => up fun hu => ?_) LossCause.noConfusion
        exact Session.noConfusion (hu.symm.trans hd)

/-! ### WAFER_OPEN (R20 to R23) -/

theorem State.portBusy_eq_false {but : Option SlotId} (h : ¬s.portBusy p but = true) {j : SlotId} (hj : some j ≠ but)
    {w : Wafer} (hw : s.waferAt j = some w) (hp : w.boundPort = some p) : ¬w.live := fun live => by
  refine h (List.any_eq_true.mpr ⟨j, mem_slotIds j, ?_⟩)
  rw [hw, Option.any_some, bne_iff_ne.mpr hj, Bool.true_and, hp]
  rcases live with e | e <;> rw [e] <;> simp

theorem joinOutbound_assign (q : List HeadOut) (w : Wafer) (x : Byte) :
    joinOutbound q (w.assignFrame x) = q ++ [w.assignFrame x] := rfl

theorem Wafer.assigns_assignFrame (w : Wafer) (x : Byte) : (w.assignFrame x).assigns x = true := beq_self_eq_true x

theorem State.slot_fillSlot_ne (s : State) {i j : SlotId} (w : Wafer) (hj : j ≠ i) :
    tabGet (s.fillSlot i w).slots j = tabGet s.slots j := by
  rw [State.fillSlot, tabGet_tabModify, if_neg hj]

theorem State.Lines.openWafer (h : s.Lines) {a : OpenArgs} (up : (s.port a.port).session = .up)
    (free : ¬s.portBusy a.port none = true) {i : SlotId} (hi : s.waferAt i = none) (prof : Profile) (l : LotId)
    (base : Nat) : (s.openWafer a i prof l base).Lines := by
  unfold State.openWafer
  dsimp only
  generalize hw : newWafer a l base (s.port a.port).serial prof = w
  have active : w.state = .active ∧ w.boundPort = some a.port := by rw [← hw]; exact ⟨rfl, rfl⟩
  generalize hu : ({ s with map := mapClear base w.size s.map } : State).joinLot l a.lotText = u
  have port : ∀ q, u.port q = s.port q := fun q => by rw [← hu]; rfl
  have slots : u.slots = s.slots := by rw [← hu]; rfl
  have bins : u.bins = s.bins := by rw [← hu]; rfl
  have notices : u.NoticesFit := by rw [← hu]; exact h.notices
  have host : u.host = s.host := by rw [← hu]; rfl
  have filled : ∀ q, (u.fillSlot i w).port q = s.port q := port
  have opened : ((u.fillSlot i w).queueOut a.port (w.assignFrame ((u.fillSlot i w).handleOf i))).Lines := by
    refine h.rebound (h.heads.bind i bins (fun j hj => ?_) (fun v hv => ?_) (v := w) ?_ active.1 active.2 up
      (fun j _ v hv hvp => State.portBusy_eq_false free (Option.some_ne_none j) hv hvp) (fun q => ?_) (fun q => ?_)
      (w.assigns_assignFrame _) fun q => ?_) (fun q => ?_) (fun q => ?_) (fun _ => notices) host
    · exact (u.slot_fillSlot_ne w hj).trans (by rw [slots])
    · rw [hi] at hv
      exact (Option.some_ne_none v hv.symm).elim
    · exact (u.waferAt_fillSlot i i w).trans (if_pos rfl)
    all_goals
      rw [State.queueOut, State.port_withPort, filled]
      split
    · rfl
    · rfl
    · rfl
    · rfl
    · exact joinOutbound_assign _ _ _
    · rfl
    · rfl
    · rfl
    · rfl
    · rfl
  exact opened.quiet ((State.Quiet.refl _).judgeHeld _ _ _).settleLamps

theorem State.Lines.runWaferOpen (h : s.Lines) (bs : List Byte) : (runWaferOpen s bs).1.Lines := by
  unfold Machine.runWaferOpen
  split
  · exact h
  · split
    · exact h
    · unfold State.judgeOpen
      split_ifs with up busy dup
      · exact h
      · exact h
      · exact h
      · split
        · exact h
        · next i hi =>
          have free : s.waferAt i = none := Option.isNone_iff_eq_none.mp (List.find?_some (p := fun i => (s.waferAt i).isNone) hi)
          split
          · exact h
          · split
            · exact h
            · split
              · exact h
              · exact h.openWafer (not_not.mp up) busy free _ _ _

/-! ### The ends, the resuming and the discarding of a wafer (R31 to R36) -/

theorem State.Lines.runWaferClose (h : s.Lines) (bs : List Byte) : (runWaferClose s bs).1.Lines := by
  unfold Machine.runWaferClose
  split
  · exact h
  · refine State.withHandle_keeps h fun i w hi hw => ?_
    split
    · next hb =>
      rw [← hi]
      exact h.hostEnding hw hb (f := (·.close .forced)) (fun _ => ⟨rfl, rfl⟩) fun hv => State.quiet_enterClosed hv _
    · exact h

theorem State.Lines.runWaferAbandon (h : s.Lines) (bs : List Byte) : (runWaferAbandon s bs).1.Lines := by
  unfold Machine.runWaferAbandon
  split
  · exact h
  · refine State.withHandle_keeps h fun i w hi hw => ?_
    split
    · next hb =>
      rw [← hi]
      exact h.hostEnding hw hb (f := Wafer.abandon) (enter := (·.enterAbandoned i)) (fun _ => ⟨rfl, rfl⟩) fun hv =>
        State.quiet_enterAbandoned hv
    · exact h

/-- Only ACTIVE and DRAINING wafers are named by entries. -/
theorem State.Heads.not_namedAt {X : SlotId → Prop} (h : s.Heads X) {i : SlotId} {w : Wafer} (hw : s.waferAt i = some w)
    (hs : w.state ≠ .active) (hd : w.state ≠ .draining) (p : PortId) : ¬s.namedAt p i := by
  rintro ⟨e, he, hh⟩
  obtain ⟨j, v, hj, hv, -, hst⟩ := ((h.list p).entries e he).named
  obtain rfl : i = j := s.handleOf_injective (hh.symm.trans (State.handleOf_resolve hj).symm)
  obtain rfl : w = v := Option.some.inj (hw.symm.trans hv)
  exact hst.elim hs hd

theorem State.Lines.resumeOn (h : s.Lines) {i : SlotId} {w : Wafer} (hw : s.waferAt i = some w)
    (hs : w.state = .suspended) (up : (s.port p).session = .up) (free : ¬s.portBusy p (some i) = true) :
    (s.resumeOn i w (s.handleOf i) p).Lines := by
  have unnamed := fun q (_ : w.boundPort = some q) => h.heads.not_namedAt hw (by rw [hs]; exact WaferState.noConfusion)
    (by rw [hs]; exact WaferState.noConfusion) q
  -- the wafer leaves its port, as if it closed, and is then bound to the port named
  have released := h.heads.release hw (by rw [hs]; rfl) unnamed (f := (·.close .forced)) ⟨rfl, rfl⟩ (.inl rfl)
  unfold State.resumeOn
  dsimp only
  generalize hf : (fun w : Wafer =>
    { w with state := .active, boundPort := some p, serial := (s.port p).serial }) = f
  have active : (f w).state = .active ∧ (f w).boundPort = some p := by rw [← hf]; exact ⟨rfl, rfl⟩
  have slot : ∀ (g : Wafer → Wafer) j, tabGet ((s.withWafer i g).dropAssignAt w.boundPort (s.handleOf i)).slots j =
      ⟨(tabGet s.slots j).generation, if j = i then (s.waferAt i).map g else s.waferAt j⟩ := fun g j => by
    obtain ⟨slots, -, -⟩ := (s.withWafer i g).dropAssignAt_rest w.boundPort (s.handleOf i)
    rw [slots, State.slot_withWafer]
  have wafer : ∀ (g : Wafer → Wafer) j, ((s.withWafer i g).dropAssignAt w.boundPort (s.handleOf i)).waferAt j =
      if j = i then (s.waferAt i).map g else s.waferAt j := fun g j => congrArg Slot.wafer (slot g j)
  have port : ∀ (g : Wafer → Wafer) q, ((s.withWafer i g).dropAssignAt w.boundPort (s.handleOf i)).port q =
      if some q = w.boundPort then { s.port q with
        outbound := (s.port q).outbound.filter fun f => !f.assigns (s.handleOf i) } else s.port q := fun g q =>
    State.port_dropAssignAt _ _ _ q
  have bins : ∀ g : Wafer → Wafer, ((s.withWafer i g).dropAssignAt w.boundPort (s.handleOf i)).bins = s.bins := fun g => by
    cases w.boundPort <;> rfl
  have handle : ∀ g : Wafer → Wafer, ((s.withWafer i g).dropAssignAt w.boundPort (s.handleOf i)).handleOf i =
      s.handleOf i := fun g => by rw [State.handleOf, slot, State.handleOf]
  have resumed : (((s.withWafer i f).dropAssignAt w.boundPort (s.handleOf i)).queueOut p
      (w.assignFrame (s.handleOf i))).Lines := by
    refine h.rebound ((released.bind (t := ((s.withWafer i f).dropAssignAt w.boundPort (s.handleOf i)).queueOut p
      (w.assignFrame (s.handleOf i))) i ((bins f).trans (bins _).symm) (fun j hj => ?_) (fun v hv => ?_) (v := f w) ?_
      active.1 active.2 ?_ (fun j hj v hv hvp => ?_) (fun q => ?_) (fun q => ?_) (f := w.assignFrame (s.handleOf i)) ?_
      fun q => ?_).mono fun _ => And.left) (fun q => ?_) (fun q => ?_) (fun hn => (hn.withWafer i f).dropAssignAt _ _)
      ((State.WorkFrame.refl (s.withWafer i f)).dropAssignAt _ _).host
    · exact (slot f j).trans (by rw [slot, if_neg hj, if_neg hj])
    · rw [wafer, if_pos rfl, hw] at hv
      exact Option.some.inj hv ▸ rfl
    · exact (wafer f i).trans (by rw [if_pos rfl, hw]; rfl)
    · rw [port]
      split <;> exact up
    · rw [wafer, if_neg hj] at hv
      exact State.portBusy_eq_false free (fun e => hj (Option.some.inj e)) hv hvp
    · rw [State.queueOut, State.port_withPort, port f, port]
      split <;> split <;> rfl
    · rw [State.queueOut, State.port_withPort, port f, port]
      split <;> split <;> rfl
    · rw [State.queueOut]
      exact (congrArg (fun x => (w.assignFrame (s.handleOf i)).assigns x) (handle f)).trans (w.assigns_assignFrame _)
    · rw [State.queueOut, State.port_withPort, port f, port]
      split <;> split <;> rfl
    · rw [State.queueOut, State.port_withPort, port f]
      split <;> split <;> rfl
    · rw [State.queueOut, State.port_withPort, port f]
      split <;> split <;> rfl
  exact resumed.quiet (((State.Quiet.refl _).judgeBound _ _ _).judgeHeld _ _ _).settleLamps

theorem State.Lines.runWaferResume (h : s.Lines) (bs : List Byte) : (runWaferResume s bs).1.Lines := by
  unfold Machine.runWaferResume
  split
  · exact h
  · split
    · exact h
    · refine State.withHandle_keeps h fun i w hi hw => ?_
      split_ifs with hs up free
      · exact h
      · exact h
      · exact h
      · rw [← hi]
        exact h.resumeOn hw (not_not.mp hs) (not_not.mp up) free

theorem State.Lines.freeSlotAt (h : s.Lines) {i : SlotId} {w : Wafer} (hw : s.waferAt i = some w)
    (hb : ¬w.state.isBound = true) : (s.freeSlotAt i).Lines := by
  have slot : ∀ j, tabGet (s.freeSlotAt i).slots j = if j = i then (tabGet s.slots i).vacate else tabGet s.slots j :=
    fun j => tabGet_tabModify _ _ _ _
  have gone : (s.freeSlotAt i).waferAt i = none := congrArg Slot.wafer ((slot i).trans (if_pos rfl))
  have unbound : ∀ q, s.boundAt q i = false := fun q => State.boundAt_eq_false fun v hv hvb =>
    (hb (Option.some.inj (hw.symm.trans hv) ▸ hvb)).elim
  have unnamed : ∀ q, ¬s.namedAt q i := h.heads.not_namedAt hw (fun e => hb (by rw [e]; rfl)) fun e => hb (by rw [e]; rfl)
  refine h.rebound ((h.heads.unbind (t := s.freeSlotAt i) i rfl (fun j hj => (slot j).trans (if_neg hj)) ?_ (fun v hv => ?_) (fun _ => rfl)
    (fun _ => rfl) (fun q _ _ _ => unnamed q) (fun q => ?_) h.heads.off).mono fun _ => And.left) (fun _ => rfl) fun _ => rfl
  · rw [slot, if_pos rfl]; rfl
  · exact (Option.some_ne_none v (hv.symm.trans gone)).elim
  · refine (h.heads.queue q).congr (fun j => ?_) fun _ _ => rfl
    by_cases hj : j = i
    · rw [hj, unbound, without, unbound, Bool.false_and]
    · rw [without, bne_iff_ne.mpr hj, Bool.and_true]

theorem State.Lines.runWaferDiscard (h : s.Lines) (bs : List Byte) : (runWaferDiscard s bs).1.Lines := by
  unfold Machine.runWaferDiscard
  split
  · exact h
  · refine State.withHandle_keeps h fun i w _ hw => ?_
    split
    · exact h
    · next hb => exact h.freeSlotAt hw hb

/-! ### The other host commands -/

theorem State.Lines.runLimitsStage (h : s.Lines) (bs : List Byte) : (runLimitsStage s bs).1.Lines := by
  have staged : ∀ i prof source, (s.stage i prof source).Lines := fun i prof source =>
    h.quiet ((State.Quiet.refl s).withWafer i _)
  have checked : ∀ {x : Byte} {k : SlotId → Answer}, (∀ i, (k i).1.Lines) → (s.stageCheck x k).1.Lines := fun {x k} hk => by
    refine State.withHandle_keeps h fun i w _ _ => ?_
    split
    · exact hk i
    · exact h
  unfold Machine.runLimitsStage
  split
  · split
    · exact h
    · refine checked fun i => ?_
      split
      · exact h
      · exact staged _ _ _
  · split_ifs
    · exact h
    · exact h
    · exact checked fun i => staged _ _ _

theorem State.Lines.runHoldRelease (h : s.Lines) (bs : List Byte) : (runHoldRelease s bs).1.Lines := by
  unfold Machine.runHoldRelease
  split
  · exact h
  · exact State.withHandle_keeps h fun i w _ _ =>
      h.quiet (((State.Quiet.refl s).withWafer i _).judgeBound _ _ _).settleLamps

/-- The bin table may change while no wafer is bound, since then no entry has a result to judge (R3). -/
theorem State.Lines.runBinsSet (h : s.Lines) (bs : List Byte) : (runBinsSet s bs).1.Lines := by
  unfold Machine.runBinsSet
  split_ifs with _ _ bound
  · exact h
  · exact h
  · exact h
  · have empty : ∀ p, (s.port p).touchdowns = [] := fun p => List.eq_nil_iff_forall_not_mem.mpr fun e he => by
      obtain ⟨i, w, -, hw, hp, -⟩ := ((h.heads.list p).entries e he).named
      refine bound ((tabList_any _ _).mpr ⟨i, ?_⟩)
      rw [show (tabGet s.slots i).wafer = some w from hw, Option.any_some]
      exact h.heads.binding.isBound hw hp
    generalize readBins bs = v
    have list : ∀ p, State.ListLaw { s with bins := v } p (s.port p).touchdowns := fun p => by
      rw [empty]
      exact ⟨Nat.zero_le 4, List.nodup_nil, fun e he => (List.not_mem_nil he).elim⟩
    exact h.rebound (t := { s with bins := v })
      ⟨h.heads.binding, h.heads.queue, h.heads.off, list, h.heads.drain⟩ (fun _ => rfl) fun _ => rfl

theorem Slot.leaveLot_map {β : Type} {g : Wafer → β} (hg : ∀ w, g { w with lotEntry := none } = g w) (l : LotId)
    (sl : Slot) : (sl.leaveLot l).wafer.map g = sl.wafer.map g := by
  unfold Slot.leaveLot
  rw [Option.map_map]
  refine congrArg (Option.map · _) (funext fun w => ?_)
  rw [Function.comp_apply]
  split
  · exact hg w
  · rfl

theorem State.slot_endLot (s : State) (l : LotId) (i : SlotId) :
    tabGet (s.endLot l).slots i = (tabGet s.slots i).leaveLot l := tabGet_tabMap _ _ _

theorem State.quiet_endLot (s : State) (l : LotId) : s.Quiet (s.endLot l) := by
  refine ⟨rfl, fun i => ?_, fun i => ?_, fun i => ?_, fun _ => rfl, fun _ => rfl, fun _ => .refl _, fun _ _ => rfl,
    fun _ => id, id, rfl⟩
  · rw [State.slot_endLot]; rfl
  · rw [State.waferAt, State.slot_endLot]; exact Slot.leaveLot_map (fun _ => rfl) l _
  · rw [State.waferAt, State.slot_endLot]; exact Slot.leaveLot_map (fun _ => rfl) l _

theorem State.Lines.runLotEnd (h : s.Lines) (bs : List Byte) : (runLotEnd s bs).1.Lines := by
  unfold Machine.runLotEnd
  refine State.withLot_keeps h fun l e _ => ?_
  split
  · exact h
  · exact h.quiet (s.quiet_endLot l)

theorem State.Lines.runNoticeFetch (h : s.Lines) (bs : List Byte) : (runNoticeFetch s bs).1.Lines := by
  unfold Machine.runNoticeFetch
  split
  · exact h
  · refine h.quiet (.aside (.refl s) rfl rfl rfl fun hn => ?_)
    exact (List.length_drop (i := 8) (l := s.notices)).trans_le ((Nat.sub_le _ _).trans hn)

theorem State.Lines.setPage (h : s.Lines) (pg : StoredPage) (v : PageBytes) (o : Option PageOp) :
    State.Lines { s.setPage pg v with pageOp := o } := by
  cases pg <;> exact h.quiet (.aside (.refl s))

theorem State.Lines.pageDone (h : s.Lines) (stored : Bool) : (s.pageDone stored).Lines := by
  unfold State.pageDone
  split
  · exact h
  · split
    · exact (h.setPage _ _ none).quiet ((State.Quiet.refl _).notify _)
    · exact h

theorem State.Lines.runPageErase (h : s.Lines) (bs : List Byte) : (runPageErase s bs).1.Lines := by
  unfold Machine.runPageErase
  split
  · exact h
  · split
    · exact h
    · split
      · exact h
      · split
        · exact h
        · exact h.setPage _ _ _

theorem State.Lines.runPageWrite (h : s.Lines) (bs : List Byte) : (runPageWrite s bs).1.Lines := by
  unfold Machine.runPageWrite
  split
  · exact h
  · split
    · exact h
    · split
      · exact h
      · split_ifs
        · exact h
        · exact h
        · exact h
        · exact h.setPage _ _ _

theorem State.Lines.softReset (h : s.Lines) : s.softReset.Lines := by
  refine ⟨State.heads_empty (fun i => ?_) (fun p => ?_) fun p => ?_, fun p => ?_, fun p => ?_, Nat.zero_le 32, h.host⟩
  · rw [State.waferAt, State.slot_softReset]
  · rw [State.port_softReset]; rfl
  · rw [State.port_softReset]; rfl
  · rw [State.port_softReset]
    exact fun e he => (Option.not_mem_none e he).elim
  · rw [State.port_softReset]
    exact (h.line p).softReset

theorem State.lines_restart (s : State) (st : Straps) : (s.restart st).Lines := by
  have empty : ∀ l, (Port.start l).outbound = [] ∧ (Port.start l).touchdowns = [] := fun l => by
    rw [Port.start_eq]; exact ⟨rfl, rfl⟩
  refine ⟨State.heads_empty (fun i => ?_) (fun p => ?_) fun p => ?_, fun p => ?_, fun p => ?_, Nat.zero_le 32, ?_⟩
  · rw [State.waferAt, State.slot_restart]
  · rw [State.port_restart]; exact (empty _).1
  · rw [State.port_restart]; exact (empty _).2
  · rw [State.port_restart, (empty _).2]
    exact fun e he => (Option.not_mem_none e he).elim
  · rw [State.port_restart]
    exact Port.lineLaw_start _
  · exact ⟨Nat.zero_le 4, iff_of_true rfl (Nat.zero_le 2), trivial, fun f hf => (List.not_mem_nil hf).elim, Nat.zero_le _,
      Nat.zero_le _⟩

/-! ### Breaks and transmitters (R143, R144, R146) -/

theorem State.Lines.longBreak (h : s.Lines) (p : PortId) : (s.longBreak p).Lines := by
  have broken : ((s.shortBreak p).withPort p fun q => { q with line := .longTaken }).Lines :=
    h.quiet (((State.Quiet.refl s).shortBreak p).withPort p _ fun hl => hl.phase _)
  unfold State.longBreak
  split
  · exact h
  · dsimp only
    split
    · next up => exact broken.lose (fun hd => Session.noConfusion (up.symm.trans hd)) LossCause.noConfusion
    · exact broken

/-- A transmitter takes the front frame of its queue, or none. -/
theorem Port.outbound_beginSend (q : Port) : q.beginSend.outbound = q.outbound ∨
    ∃ f, q.outbound = f :: q.beginSend.outbound := by
  unfold Port.beginSend
  split
  · next f rest _ hq =>
    split
    · exact .inr ⟨f, hq⟩
    · exact .inl rfl
  · exact .inl rfl

theorem Port.beginSend_rest (q : Port) : q.beginSend.session = q.session ∧ q.beginSend.touchdowns = q.touchdowns := by
  unfold Port.beginSend
  split
  · split <;> exact ⟨rfl, rfl⟩
  · exact ⟨rfl, rfl⟩

/-- What a transmitter does to its port: the front frame may leave the queue. -/
theorem State.Lines.send (h : s.Lines) (p : PortId) {f : Port → Port} {q : Port} (hf : f (s.port p) = q.beginSend)
    (hs : q.session = (s.port p).session) (ho : q.outbound = (s.port p).outbound)
    (ht : q.touchdowns = (s.port p).touchdowns) (hl : q.LineLaw) : (s.withPort p f).Lines := by
  obtain ⟨session, touchdowns⟩ := q.beginSend_rest
  have queue : QueueLaw (s.boundAt p) s.handleOf q.outbound := ho ▸ h.heads.queue p
  refine h.withPort (h.heads.requeue p f ?_ (fun hd => ?_) (by rw [hf, session, hs]) (by rw [hf, touchdowns, ht]))
    (by rw [hf, touchdowns, ht]) (by rw [hf]; exact hl.beginSend)
  · rw [hf]
    rcases q.outbound_beginSend with e | ⟨g, e⟩
    · rw [e]; exact queue
    · rw [e] at queue; exact queue.tail
  · rw [hf]
    have empty : q.outbound = [] := ho.trans (h.heads.off p hd)
    rcases q.outbound_beginSend with e | ⟨g, e⟩
    · exact e.trans empty
    · rw [empty] at e; cases e

theorem State.Lines.finishSend (h : s.Lines) (p : PortId) (r : Bool) : (s.withPort p fun q => q.finishSend r).Lines := by
  cases hs : (s.port p).sending with
  | none =>
    rw [State.withPort_id]
    · exact h
    · unfold Port.finishSend; rw [hs]
  | some x =>
    refine h.send p (q := { s.port p with sending := none, rdyIn := r }) ?_ rfl rfl rfl ((h.line p).idle.rdyIn r)
    unfold Port.finishSend; rw [hs]

/-! ### Every step -/

/-- Every command keeps the laws of the lines. -/
theorem exec_lines {c : Instr} (h : s.Lines) (he : exec c s = .next t) : t.Lines := by
  -- the next state of an arm that cannot stop, and of one whose cells exist
  have next : ∀ {u : State}, u.Lines → Host.Outcome.next u = (Host.Outcome.next t : Host.Outcome State Fault Refusal) →
      t.Lines := fun hu e => Host.Outcome.next.inj e ▸ hu
  have guarded : ∀ {u : State}, u.Lines → s.guardCells u = .next t → t.Lines := fun hu e =>
    (State.guardCells_next e).2 ▸ hu
  have host : ∀ {code run}, (∀ (u : State) bs, u.Lines → (run u bs).1.Lines) → (s.takeHost code run).Lines := fun hr =>
    State.takeHost_keeps h (fun f rest hq => h.popHost hq) hr fun u k bs hu => hu.compose k bs
  have line : ∀ p, (s.port p).LineLaw := h.line
  cases c with
  | headFrameReceived p cs => exact next (h.quiet (.headChars cs (.refl s) (line p))) he
  | shortBreak p => exact next (h.quiet ((State.Quiet.refl s).shortBreak p)) he
  | longBreak p => exact next (h.longBreak p) he
  | hostFrameReceived cs => exact next (h.withHost (h.host.chars cs)) he
  | hostShortBreak => exact next (h.withHost h.host.shortBreak) he
  | announce p => exact next (h.takeAnnounce p) he
  | touch p => exact next (h.takeHead p _ fun u bs hu => hu.touch bs) he
  | site p => exact next (h.takeHead p _ fun u bs hu => hu.site bs) he
  | lift p => exact guarded (h.takeHead p _ fun u bs hu => hu.lift bs) he
  | unload p => exact next (h.takeHead p _ fun u bs hu => hu.unload bs) he
  | beat p => exact next (h.takeHead p _ fun u bs hu => hu.beat bs) he
  | nonHeadFrame p => exact next (h.quiet ((State.Quiet.refl s).nonHeadFrame p)) he
  | silenceExpiry p =>
    refine next ?_ he
    unfold State.silenceExpiry
    split
    · next hc => exact h.lose (fun hd => Session.noConfusion (hc.1.symm.trans hd)) LossCause.noConfusion
    · exact h
  | headFrameSend p r => exact next (h.send p (q := { s.port p with rdyIn := r }) rfl rfl rfl rfl ((line p).rdyIn r)) he
  | hostReplySend e => exact next (h.withHost (h.host.send e)) he
  | pageDone stored => exact next (h.pageDone stored) he
  | lampPhaseExpiry l => exact next (h.quiet (.aside (.refl s))) he
  | powerUp st => exact next (s.lines_restart st) he
  | pinReset st => exact next (s.lines_restart st) he
  | queryPart => exact next (host fun u bs hu => by unfold runQueryPart; split <;> exact hu) he
  | status => exact next (host fun u bs hu => by unfold runStatus; split; exact hu; exact hu.clearCounters) he
  | headSet => exact next (host fun u bs hu => hu.runHeadSet bs) he
  | headStatus => exact next (host fun u bs hu => hu.runHeadStatus bs) he
  | headDrop => exact next (host fun u bs hu => hu.runHeadDrop bs) he
  | waferOpen => exact next (host fun u bs hu => hu.runWaferOpen bs) he
  | waferClose => exact guarded (host fun u bs hu => hu.runWaferClose bs) he
  | waferAbandon => exact guarded (host fun u bs hu => hu.runWaferAbandon bs) he
  | waferResume => exact next (host fun u bs hu => hu.runWaferResume bs) he
  | waferDiscard => exact next (host fun u bs hu => hu.runWaferDiscard bs) he
  | waferRead => exact next (host fun u bs hu => by rw [runWaferRead_fst]; exact hu) he
  | mapRead => exact guarded (host fun u bs hu => by rw [runMapRead_fst]; exact hu) he
  | alarmsRead => exact next (host fun u bs hu => by rw [runAlarmsRead_fst]; exact hu) he
  | limitsStage => exact next (host fun u bs hu => hu.runLimitsStage bs) he
  | limitsRead => exact next (host fun u bs hu => by rw [runLimitsRead_fst]; exact hu) he
  | holdRelease => exact next (host fun u bs hu => hu.runHoldRelease bs) he
  | waferBins => exact next (host fun u bs hu => by rw [runWaferBins_fst]; exact hu) he
  | binsSet => exact next (host fun u bs hu => hu.runBinsSet bs) he
  | binsRead => exact next (host fun u bs hu => by unfold runBinsRead; split <;> exact hu) he
  | lampSet =>
    refine next (host fun u bs hu => ?_) he
    unfold runLampSet
    split
    · exact hu
    · split
      · exact hu
      · exact hu.quiet (State.Quiet.settleLamps (.aside (.refl u)))
  | alertSet =>
    refine next (host fun u bs hu => ?_) he
    unfold runAlertSet
    split_ifs
    · exact hu
    · exact hu
    · exact hu.quiet (.aside (.refl u))
  | lotRead => exact next (host fun u bs hu => State.withLot_keeps hu fun l e _ => hu) he
  | lotEnd => exact next (host fun u bs hu => hu.runLotEnd bs) he
  | noticeFetch => exact next (host fun u bs hu => hu.runNoticeFetch bs) he
  | pageRead => exact next (host fun u bs hu => by rw [runPageRead_fst]; exact hu) he
  | pageWrite => exact next (host fun u bs hu => hu.runPageWrite bs) he
  | pageErase => exact next (host fun u bs hu => hu.runPageErase bs) he
  | partReset => exact next (host fun u bs hu => by unfold runPartReset; split; exact hu; exact hu.softReset) he
  | unknownKind =>
    refine next ?_ he
    unfold State.unknownKind
    split
    · next f rest _ hq =>
      split
      · exact h
      · exact (h.popHost hq).compose _ _
    · exact h
  | framingError p c => exact next (h.quiet (.headChar (.refl s) (line p) c)) he
  | breakEnd p => exact next (h.quiet ((State.Quiet.refl s).withPort p _ fun hl => hl.phase _)) he
  | hostFramingError c => exact next (h.withHost (h.host.char c)) he
  | hostBreakEnd => exact next (h.withHost (q := { s.host with line := .high }) { h.host with }) he
  | frameFinished p r => exact next (h.finishSend p r) he

/-- Every step keeps the laws of the lines. -/
theorem step_lines (h : s.Lines) (he : step s = .next t) : t.Lines := by
  unfold step at he
  split at he
  · exact Host.Outcome.next.inj he ▸ h.quiet (.tick s)
  · exact exec_lines (h.quiet (.aside (.refl s))) he

theorem State.Sound.lines (h : s.Sound) : s.Lines := by
  obtain ⟨list, front, drain⟩ := s.touchdownLaw_iff.mp h.touchdown
  obtain ⟨host, notices⟩ := s.hostLaw_iff.mp h.host
  have port := fun p => (Port.law_iff _).mp (h.port p)
  exact ⟨⟨h.binding, s.outboundLaw_iff.mp h.outbound, fun p => (port p).2.1, list, fun i w hw hs _ => drain i w hw hs⟩,
    front, fun p => (port p).1, notices, host⟩

theorem State.Lines.portLaw (h : s.Lines) : s.PortLaw := fun p =>
  (Port.law_iff _).mpr ⟨h.line p, h.heads.off p, h.heads.outbound_length p, h.heads.down⟩

end

/-- Settles O9: bindings are one part of the laws of the lines, which every step keeps together. -/
theorem stepsKeepTheBindingLaw : Obligations.StepsKeepTheBindingLaw := fun _ _ sound he =>
  (step_lines sound.lines he).heads.binding

/-- Settles O11: the law of each line is kept by its events and by every loss; that of its outbound queue follows the
binding and unbinding of wafers, and bounds the queue's length. -/
theorem stepsKeepTheLineLaws : Obligations.StepsKeepTheLineLaws := fun _ t sound he =>
  have h := step_lines sound.lines he
  ⟨h.portLaw, t.outboundLaw_iff.mpr h.heads.queue, t.hostLaw_iff.mpr ⟨h.host, h.notices⟩⟩

/-- Settles O12: entries are kept with the wafers they name, and a pass leaves an OPEN front. -/
theorem stepsKeepTheTouchdownLaw : Obligations.StepsKeepTheTouchdownLaw := fun _ t sound he =>
  have h := step_lines sound.lines he
  t.touchdownLaw_iff.mpr ⟨h.heads.list, h.front, fun i w hw hs => h.heads.drain i w hw hs id⟩

end Sys2Proof.Machine
end

section
/-! PROOFS. What a verdict, a latch, a window close and the feeding of a result make of a wafer's record, exactly
(R78 to R82, R93, R105, R111; for O16). -/
namespace Sys2Proof.Machine

/-- Only the record of the wafer in one slot changes, by `f`; the cells and the lots stay. -/
structure State.Updates (s t : State) (i : SlotId) (f : Wafer → Wafer) : Prop where
  wafer : ∀ j, t.waferAt j = if j = i then (s.waferAt i).map f else s.waferAt j
  map : t.map = s.map
  lots : t.lots = s.lots
  bins : t.bins = s.bins

section
variable {s t u : State} {i : SlotId} {f g : Wafer → Wafer}

theorem State.Updates.refl (s : State) (i : SlotId) : s.Updates s i id :=
  ⟨fun j => by split <;> simp_all, rfl, rfl, rfl⟩

theorem State.Updates.trans (h : s.Updates t i f) (k : t.Updates u i g) : s.Updates u i (g ∘ f) := by
  refine ⟨fun j => ?_, k.map.trans h.map, k.lots.trans h.lots, k.bins.trans h.bins⟩
  rw [k.wafer, h.wafer, h.wafer, if_pos rfl, Option.map_map]
  split <;> rfl

/-- A change that agrees on the record as it stands is the same. -/
theorem State.Updates.congr (h : s.Updates t i f) (hg : ∀ w, s.waferAt i = some w → g w = f w) : s.Updates t i g := by
  refine ⟨fun j => ?_, h.map, h.lots, h.bins⟩
  rw [h.wafer]
  cases hw : s.waferAt i with
  | none => rfl
  | some w => rw [Option.map_some, Option.map_some, hg w hw]

theorem State.Updates.at (h : s.Updates t i f) {w : Wafer} (hw : s.waferAt i = some w) : t.waferAt i = some (f w) := by
  rw [h.wafer, if_pos rfl, hw, Option.map_some]

theorem State.updates_withWafer (s : State) (i : SlotId) (f : Wafer → Wafer) : s.Updates (s.withWafer i f) i f :=
  ⟨fun j => s.waferAt_withWafer i j f, rfl, rfl, rfl⟩

/-- What leaves the slots, the cells, the lots and the bin table alone comes after a change. -/
theorem State.Updates.after (h : s.Updates t i f) (hs : u.slots = t.slots) (hl : u.lots = t.lots) (hm : u.map = t.map)
    (hb : u.bins = t.bins) : s.Updates u i f :=
  ⟨fun j => (congrArg (fun v => (tabGet v j).wafer) hs).trans (h.wafer j), hm.trans h.map, hl.trans h.lots, hb.trans h.bins⟩

theorem State.Updates.settleLamps (h : s.Updates t i f) : s.Updates t.settleLamps i f := h.after rfl rfl rfl rfl

theorem State.Updates.notify (h : s.Updates t i f) (n : Notice) : s.Updates (t.notify n) i f :=
  h.after (t.notify_slots n) (t.notify_lots n) (t.notify_map n) (t.notify_bins n)

theorem State.Updates.judgeBound (h : s.Updates t i f) (p : Option PortId) (x : Byte) (src : Option Source) :
    s.Updates (t.judgeBound p x src) i f := by
  obtain ⟨slots, lots, map⟩ := t.judgeBound_rest p x src
  exact h.after slots lots map ((State.WorkFrame.refl t).judgeBound p x src).bins

end

/-! ### Verdicts (R111 to R117) -/

/-- Alarms-raised after a record's change (R113). -/
def raisedAfter (n : Nat) : AlarmEvent → Nat
  | .raised _ => bump n
  | .none => n
  | .escalated => n
  | .cleared _ => n

/-- A record after a verdict. -/
def Wafer.afterVerdict (w : Wafer) (sv : Source × Verdict) : Wafer :=
  let r := alarmStep (raiseDebounceOf w.active sv.1) w.active.clearDebounce (tabGet w.alarms sv.1) sv.2
  { w with alarms := tabSet w.alarms sv.1 r.1, alarmsRaised := raisedAfter w.alarmsRaised r.2 }

theorem State.updates_giveVerdict (s : State) (i : SlotId) (sv : Source × Verdict) :
    s.Updates (s.giveVerdict i sv) i (·.afterVerdict sv) := by
  show s.Updates (State.giveVerdict i s sv) i _
  unfold State.giveVerdict
  cases hw : s.waferAt i with
  | none => exact (State.Updates.refl s i).congr fun w h => (Option.some_ne_none w (h.symm.trans hw)).elim
  | some w =>
    dsimp only
    generalize hr : alarmStep (raiseDebounceOf w.active sv.1) w.active.clearDebounce (tabGet w.alarms sv.1) sv.2 = r
    have verdict : ∀ {f : Wafer → Wafer} {t : State}, s.Updates t i f →
        f w = { w with alarms := tabSet w.alarms sv.1 r.1, alarmsRaised := raisedAfter w.alarmsRaised r.2 } →
        s.Updates t.settleLamps i (·.afterVerdict sv) := fun h hf => h.settleLamps.congr fun v hv => by
      obtain rfl : w = v := Option.some.inj (hw.symm.trans hv)
      rw [hf, Wafer.afterVerdict, hr]
    have set := s.updates_withWafer i fun w => w.setAlarm sv.1 r.1
    have raised := set.trans (State.updates_withWafer _ i fun w => { w with alarmsRaised := bump w.alarmsRaised })
    rcases r with ⟨a, e⟩
    cases e with
    | none => exact verdict set rfl
    | raised l =>
      cases l with
      | warn => exact verdict (raised.notify _) rfl
      | hold => exact verdict ((raised.notify _).judgeBound _ _ _) rfl
    | escalated => exact verdict ((set.notify _).judgeBound _ _ _) rfl
    | cleared l => exact verdict (set.notify _) rfl

/-- A record after verdicts in order. -/
def Wafer.afterVerdicts (w : Wafer) (vs : List (Source × Verdict)) : Wafer := vs.foldl Wafer.afterVerdict w

theorem State.updates_giveVerdicts (i : SlotId) (vs : List (Source × Verdict)) : ∀ s : State,
    s.Updates (vs.foldl (State.giveVerdict i) s) i (·.afterVerdicts vs) := by
  induction vs with
  | nil => exact fun s => .refl s i
  | cons sv vs ih => exact fun s => (s.updates_giveVerdict i sv).trans (ih _)

/-! ### Latches and window closes (R93, R105) -/

/-- A record after a latch. -/
def Wafer.afterLatch (w : Wafer) : Wafer :=
  match w.staged with
  | none => w
  | some st =>
    { w.clearSurplus st.profile.watched.length with active := st.profile, activeSource := st.source, staged := none }

theorem State.updates_latch (s : State) (i : SlotId) : s.Updates (s.latch i) i Wafer.afterLatch := by
  unfold State.latch
  cases hw : s.waferAt i with
  | none => exact (State.Updates.refl s i).congr fun w h => (Option.some_ne_none w (h.symm.trans hw)).elim
  | some w =>
    dsimp only
    cases hst : w.staged with
    | none =>
      refine (State.Updates.refl s i).congr fun v hv => ?_
      obtain rfl : w = v := Option.some.inj (hw.symm.trans hv)
      unfold Wafer.afterLatch
      rw [hst]
      rfl
    | some st =>
      have latched : s.Updates (s.withWafer i fun w => { w.clearSurplus st.profile.watched.length with
          active := st.profile, activeSource := st.source, staged := none }) i Wafer.afterLatch := by
        refine (s.updates_withWafer i _).congr fun v hv => ?_
        obtain rfl : w = v := Option.some.inj (hw.symm.trans hv)
        unfold Wafer.afterLatch
        rw [hst]
      dsimp only
      split
      · exact (latched.judgeBound _ _ _).settleLamps
      · exact latched.settleLamps

/-- The verdicts that a closing window of a wafer gives. -/
def Wafer.closing (w : Wafer) : List (Source × Verdict) := closingVerdicts w.active w.window (tabGet w.alarms yieldSource)

/-- A record after its window closes. -/
def Wafer.afterClose (w : Wafer) : Wafer :=
  let v := (w.afterVerdicts w.closing).afterLatch
  { v with windowsClosed := bump v.windowsClosed, window := Window.empty }

theorem State.updates_closeWindow (s : State) (i : SlotId) : s.Updates (s.closeWindow i) i Wafer.afterClose := by
  unfold State.closeWindow
  cases hw : s.waferAt i with
  | none => exact (State.Updates.refl s i).congr fun w h => (Option.some_ne_none w (h.symm.trans hw)).elim
  | some w =>
    refine (((State.updates_giveVerdicts i _ s).trans (State.updates_latch _ i)).trans
      (State.updates_withWafer _ i _)).congr fun v hv => ?_
    obtain rfl : w = v := Option.some.inj (hw.symm.trans hv)
    rfl

/-! ### The feeding of a result (R78 to R82) -/

/-- A record after the RUN verdict of its run. -/
def Wafer.afterRun (w : Wafer) : Wafer := w.afterVerdict (runSource, runVerdict w.active w.run)

/-- A record whose window closes where it is full. -/
def Wafer.afterFull (w : Wafer) : Wafer := if w.window.count = w.active.window then w.afterClose else w

theorem State.updates_runDetect (s : State) (i : SlotId) : s.Updates (s.runDetect i) i Wafer.afterRun := by
  unfold State.runDetect
  cases hw : s.waferAt i with
  | none => exact (State.Updates.refl s i).congr fun w h => (Option.some_ne_none w (h.symm.trans hw)).elim
  | some w =>
    refine (s.updates_giveVerdict i _).congr fun v hv => ?_
    obtain rfl : w = v := Option.some.inj (hw.symm.trans hv)
    rfl

theorem State.updates_closeIfFull (s : State) (i : SlotId) : s.Updates (s.closeIfFull i) i Wafer.afterFull := by
  have full : ∀ w, s.waferAt i = some w → (s.windowFull i = true ↔ w.window.count = w.active.window) := fun w hw => by
    rw [State.windowFull, hw, Option.any_some, beq_iff_eq]
  unfold State.closeIfFull
  split
  · next h => exact (s.updates_closeWindow i).congr fun w hw => if_pos ((full w hw).mp h)
  · next h => exact (State.Updates.refl s i).congr fun w hw => if_neg fun e => h ((full w hw).mpr e)

/-- A record after a result of bin `r` and class `c` is fed. -/
def Wafer.fed (w : Wafer) (retest : Bool) (n : SiteId) (r : Bin) (c : BinClass) : Wafer :=
  ((w.feed retest n r c).afterRun).afterFull

theorem State.updates_feedResult (s : State) (i : SlotId) (retest : Bool) (n : SiteId) (r : Bin) :
    s.Updates (s.feedResult i retest n r) i fun w => w.fed retest n r (s.binClass r) :=
  ((s.updates_withWafer i _).trans (State.updates_runDetect _ i)).trans (State.updates_closeIfFull _ i)

end Sys2Proof.Machine
end

section
/-! PROOFS. The laws of a wafer's record, its alarms, its window and its saturating counters, and what verdicts, latches,
window closes and applied results keep of them (R17, R79 to R82, R92, R105, R110 to R116; for O16). -/
namespace Sys2Proof.Machine

/-- What an accepted profile bounds of the alarm records and the window (R87). -/
theorem Profile.accepted_ranges {p : Profile} (h : p.accepted = true) :
    16 ≤ p.window ∧ p.raiseDebounce ≤ 8 ∧ p.clearDebounce ≤ 8 ∧ p.watched.length ≤ 8 := by
  obtain ⟨⟨window, raise, clear, -, -, -, -, -, -, -, -, -, watched, -⟩, -⟩ := (stepsKeepTheSettingsLaw.2 p).mp h
  exact ⟨window.1, raise.2, clear.2, watched⟩

/-! ### Alarm records (R110 to R117) -/

theorem Alarm.law_cleared : Alarm.cleared.Law := rfl

theorem settleRaise_law (rd : Nat) (l : Level) {n : Nat} (h1 : 1 ≤ n) (hr : rd ≤ 8) : (settleRaise rd l n).1.Law := by
  unfold settleRaise
  split
  · cases l <;> exact ⟨rfl, rfl, fun h => Bool.noConfusion h⟩
  · next h => exact ⟨rfl, rfl, h1, (Nat.lt_of_not_le h).le.trans hr⟩

theorem settleClear_law (cd : Nat) (l : Level) {n : Nat} (h1 : 1 ≤ n) (hc : cd ≤ 8) : (settleClear cd l n).1.Law := by
  unfold settleClear
  split
  · exact Alarm.law_cleared
  · next h =>
    refine ⟨rfl, ?_, h1, (Nat.lt_of_not_le h).le.trans hc⟩
    show (l == .hold) = true ↔ some l = some .hold
    rw [beq_iff_eq, Option.some_inj]

/-- A verdict keeps the law of a record. -/
theorem alarmStep_law {rd cd : Nat} (hr : rd ≤ 8) (hc : cd ≤ 8) {a : Alarm} (h : a.Law) (v : Verdict) :
    (alarmStep rd cd a v).1.Law := by
  have warn : Alarm.raisedWarn.Law := ⟨rfl, rfl, fun h => Bool.noConfusion h⟩
  have hold : ∀ b, (Alarm.raisedHold b).Law := fun b => ⟨rfl, rfl, fun _ => rfl⟩
  unfold alarmStep
  split
  · exact h
  · exact settleRaise_law rd _ (Nat.le_refl 1) hr
  · exact settleRaise_law rd _ (Nat.le_refl 1) hr
  · exact Alarm.law_cleared
  · exact settleRaise_law rd _ (Nat.le_add_left 1 _) hr
  · exact settleRaise_law rd _ (Nat.le_add_left 1 _) hr
  · split
    · split
      · split
        · exact h
        · exact warn
        · exact settleClear_law cd _ (Nat.le_refl 1) hc
      · exact h
    · split
      · exact h
      · exact hold _
      · exact settleClear_law cd _ (Nat.le_refl 1) hc
  · exact settleClear_law cd _ (Nat.le_add_left 1 _) hc
  · split
    · exact hold _
    · exact warn
  · split
    · exact hold _
    · exact hold _

/-- With a raise debounce of 1 a record is never PENDING (R116). -/
theorem alarmStep_not_pending (cd : Nat) {a : Alarm} (h : a.state ≠ .pending) (v : Verdict) :
    (alarmStep 1 cd a v).1.state ≠ .pending := by
  have raise : ∀ l, (settleRaise 1 l 1).1.state ≠ .pending := fun l => by
    cases l <;> exact AlarmState.noConfusion
  have clear : ∀ l n, (settleClear cd l n).1.state ≠ .pending := fun l n => by
    unfold settleClear
    split <;> exact AlarmState.noConfusion
  have hold : ∀ b, (Alarm.raisedHold b).state ≠ .pending := fun b => AlarmState.noConfusion
  have warn : Alarm.raisedWarn.state ≠ .pending := AlarmState.noConfusion
  unfold alarmStep
  split
  · exact h
  · exact raise _
  · exact raise _
  · next hp => exact (h hp).elim
  · next hp => exact (h hp).elim
  · next hp => exact (h hp).elim
  · split
    · split
      · split
        · exact h
        · exact warn
        · exact clear _ _
      · exact h
    · split
      · exact h
      · exact hold _
      · exact clear _ _
  · exact clear _ _
  · split
    · exact hold _
    · exact warn
  · split <;> exact hold _

/-- The law of a wafer's alarm records (R105, R110, R116). -/
structure Wafer.AlarmsLaw (w : Wafer) : Prop where
  each : ∀ src, (tabGet w.alarms src).Law
  runRecord : (tabGet w.alarms runSource).state ≠ .pending
  surplus : ∀ j : Fin 8, w.active.watched.length ≤ j.val → tabGet w.alarms (binSource j) = Alarm.cleared

/-- A verdict may be given under a profile: one of a watched bin is of a bin that the profile watches. -/
def Profile.judges (p : Profile) (src : Source) : Prop := ∀ j : Fin 8, src = binSource j → j.val < p.watched.length

theorem Wafer.AlarmsLaw.afterVerdict {w : Wafer} (h : w.AlarmsLaw) (ok : w.active.accepted = true)
    {sv : Source × Verdict} (hj : w.active.judges sv.1) : (w.afterVerdict sv).AlarmsLaw := by
  obtain ⟨-, raise, clear, -⟩ := Profile.accepted_ranges ok
  have debounce : raiseDebounceOf w.active sv.1 ≤ 8 := by
    unfold raiseDebounceOf
    split
    · decide
    · exact raise
  refine ⟨fun src => ?_, ?_, fun j hlen => ?_⟩ <;> simp only [Wafer.afterVerdict, tabGet_tabSet] <;> split
  · exact alarmStep_law debounce clear (h.each sv.1) sv.2
  · exact h.each src
  · next e =>
    rw [← e, raiseDebounceOf, if_pos rfl]
    exact alarmStep_not_pending _ h.runRecord _
  · exact h.runRecord
  · next e => exact (Nat.not_lt.mpr hlen (hj j e.symm)).elim
  · exact h.surplus j hlen

theorem runSource_judged (p : Profile) : p.judges runSource := fun j h => by
  have := congrArg Fin.val h
  have : (1 : Nat) = j.val + 2 := this
  omega

theorem Wafer.judges_closing {w : Wafer} {sv : Source × Verdict} (h : sv ∈ w.closing) : w.active.judges sv.1 := by
  intro j hj
  unfold Wafer.closing closingVerdicts at h
  rw [List.cons_append, List.mem_cons, List.mem_append] at h
  have place := congrArg Fin.val hj
  rcases h with rfl | h | h
  · have : (0 : Nat) = j.val + 2 := place
    omega
  · obtain ⟨i, -, hi⟩ := List.mem_filterMap.mp h
    obtain ⟨e, he, rfl⟩ := Option.map_eq_some_iff.mp hi
    have : i.val + 2 = j.val + 2 := place
    rw [show j.val = i.val by omega]
    exact (List.getElem?_eq_some_iff.mp he).1
  · obtain ⟨n, -, rfl⟩ := List.mem_map.mp h
    have : n.val + 10 = j.val + 2 := place
    omega

theorem Wafer.AlarmsLaw.afterVerdicts (vs : List (Source × Verdict)) : ∀ {w : Wafer}, w.AlarmsLaw →
    w.active.accepted = true → (∀ sv ∈ vs, w.active.judges sv.1) → (w.afterVerdicts vs).AlarmsLaw := by
  induction vs with
  | nil => exact fun h _ _ => h
  | cons sv vs ih =>
    exact fun h ok hj => ih (h.afterVerdict ok (hj sv List.mem_cons_self)) ok fun x hx =>
      hj x (List.mem_cons_of_mem _ hx)

theorem mem_watchedIds : ∀ j : Fin 8, j ∈ watchedIds := by decide

/-- A record after the surplus is cleared (R105 step 2). -/
theorem Wafer.clearSurplus_alarm (w : Wafer) (n : Nat) (src : Source) : tabGet (w.clearSurplus n).alarms src =
    if (surplusBins n).any (fun j => src = binSource j) then Alarm.cleared else tabGet w.alarms src :=
  tabGet_clearBins _ src _

theorem Wafer.AlarmsLaw.afterLatch {w : Wafer} (h : w.AlarmsLaw) : w.afterLatch.AlarmsLaw := by
  unfold Wafer.afterLatch
  split
  · exact h
  · next st _ =>
    refine ⟨fun src => ?_, ?_, fun j hlen => ?_⟩
    · rw [Wafer.clearSurplus_alarm]
      split
      · exact Alarm.law_cleared
      · exact h.each src
    · rw [Wafer.clearSurplus_alarm, if_neg fun hr => ?_]
      · exact h.runRecord
      · obtain ⟨j, -, hj⟩ := List.any_eq_true.mp hr
        have : (1 : Nat) = j.val + 2 := congrArg Fin.val (decide_eq_true_iff.mp hj)
        omega
    · rw [Wafer.clearSurplus_alarm, if_pos]
      exact List.any_eq_true.mpr ⟨j, List.mem_filter.mpr ⟨mem_watchedIds j, decide_eq_true hlen⟩, decide_eq_true rfl⟩

theorem Wafer.AlarmsLaw.acknowledge {w : Wafer} (h : w.AlarmsLaw) : w.acknowledge.AlarmsLaw := by
  have record : ∀ src, tabGet w.acknowledge.alarms src = (tabGet w.alarms src).acknowledge := fun src =>
    tabGet_tabMap _ _ _
  refine ⟨fun src => ?_, ?_, fun j hlen => ?_⟩
  · rw [record, Alarm.acknowledge]
    split
    · next held =>
      have law := h.each src
      simp only [Alarm.holds, Bool.and_eq_true, beq_iff_eq] at held
      obtain ⟨⟨hs, hl⟩, -⟩ := held
      unfold Alarm.Law at law ⊢
      dsimp only
      rw [hs] at law ⊢
      exact ⟨law.1, law.2.1, fun _ => hl⟩
    · exact h.each src
  · rw [record, Alarm.acknowledge]
    split <;> exact h.runRecord
  · rw [record, h.surplus j hlen]
    rfl

/-! ### The window (R79, R80, R82, R92) -/

/-- The counts of a window agree. -/
structure Window.Law (w : Window) : Prop where
  sum : w.pass + w.fail = w.count
  results : (tabList w.siteResults).sum = w.count
  fails : (tabList w.siteFails).sum = w.fail

theorem Window.law_empty : Window.empty.Law := ⟨rfl, by decide, by decide⟩

/-- The sum of a table, entry by entry. -/
theorem tabList_sum {n : Nat} (v : Vector Nat n) : (tabList v).sum = ∑ i, tabGet v i := by
  rw [tabList_eq_map, Fin.sum_univ_def]

/-- Two sums that differ in one term alone. -/
theorem sum_differ {n : Nat} {f g : Fin n → Nat} (i : Fin n) (h : ∀ j, j ≠ i → g j = f j) :
    ∑ j, g j + f i = ∑ j, f j + g i := by
  have hf := Finset.add_sum_erase Finset.univ f (Finset.mem_univ i)
  have hg := Finset.add_sum_erase Finset.univ g (Finset.mem_univ i)
  have rest : ∑ j ∈ Finset.univ.erase i, g j = ∑ j ∈ Finset.univ.erase i, f j :=
    Finset.sum_congr rfl fun j hj => h j (Finset.ne_of_mem_erase hj)
  omega

theorem tabList_sum_succ {n : Nat} (v : Vector Nat n) (i : Fin n) :
    (tabList (tabModify v i (· + 1))).sum = (tabList v).sum + 1 := by
  have differ := sum_differ (f := tabGet v) (g := tabGet (tabModify v i (· + 1))) i fun j hj => by
    rw [tabGet_tabModify, if_neg hj]
  rw [tabGet_tabModify, if_pos rfl] at differ
  rw [tabList_sum, tabList_sum]
  omega

theorem Window.Law.feed {w : Window} (h : w.Law) (watched : List Watched) (n : SiteId) (r : Bin) {c : BinClass}
    (hc : c ≠ .unused) : (w.feed watched n r c).Law := by
  obtain ⟨sum, results, fails⟩ := h
  refine ⟨?_, ?_, ?_⟩
  · show (if c = .pass then w.pass + 1 else w.pass) + (if c = .fail then w.fail + 1 else w.fail) = w.count + 1
    cases c with
    | unused => exact (hc rfl).elim
    | pass => rw [if_pos rfl, if_neg BinClass.noConfusion]; omega
    | fail => rw [if_neg BinClass.noConfusion, if_pos rfl]; omega
  · exact (tabList_sum_succ _ n).trans (by rw [results]; rfl)
  · show (tabList (if c = .fail then tabModify w.siteFails n (· + 1) else w.siteFails)).sum =
      if c = .fail then w.fail + 1 else w.fail
    split
    · rw [tabList_sum_succ, fails]
    · exact fails

/-! ### The saturating counters (R17) -/

/-- The saturating counters of a record are in range. -/
structure Wafer.CountersFit (w : Wafer) : Prop where
  resultsApplied : w.resultsApplied ≤ countCap
  retestResults : w.retestResults ≤ countCap
  excessResults : w.excessResults ≤ countCap
  missingSites : w.missingSites ≤ countCap
  skippedSites : w.skippedSites ≤ countCap
  touchdownsApplied : w.touchdownsApplied ≤ countCap
  touchdownsVoided : w.touchdownsVoided ≤ countCap
  windowsClosed : w.windowsClosed ≤ countCap
  alarmsRaised : w.alarmsRaised ≤ countCap
  run : w.run ≤ countCap

theorem raisedAfter_le {n : Nat} (h : n ≤ countCap) (e : AlarmEvent) : raisedAfter n e ≤ countCap := by
  cases e with
  | raised l => exact bump_le n
  | none => exact h
  | escalated => exact h
  | cleared l => exact h

/-! ### A whole record -/

/-- The laws of a record but for the room in its window. -/
structure Wafer.RecordLaw (w : Wafer) : Prop extends w.AlarmsLaw, w.CountersFit where
  window : w.window.Law

theorem Wafer.RecordLaw.afterVerdict {w : Wafer} (h : w.RecordLaw) (ok : w.active.accepted = true)
    {sv : Source × Verdict} (hj : w.active.judges sv.1) : (w.afterVerdict sv).RecordLaw :=
  { h.toAlarmsLaw.afterVerdict ok hj, h.toCountersFit with
    alarmsRaised := raisedAfter_le h.alarmsRaised _
    window := h.window }

theorem Wafer.RecordLaw.afterVerdicts (vs : List (Source × Verdict)) : ∀ {w : Wafer}, w.RecordLaw →
    w.active.accepted = true → (∀ sv ∈ vs, w.active.judges sv.1) → (w.afterVerdicts vs).RecordLaw := by
  induction vs with
  | nil => exact fun h _ _ => h
  | cons sv vs ih =>
    exact fun h ok hj => ih (h.afterVerdict ok (hj sv List.mem_cons_self)) ok fun x hx =>
      hj x (List.mem_cons_of_mem _ hx)

/-- What verdicts leave of a record: all but its alarms and alarms-raised. -/
theorem Wafer.afterVerdicts_rest (vs : List (Source × Verdict)) : ∀ w : Wafer,
    w.afterVerdicts vs = { w with
      alarms := (w.afterVerdicts vs).alarms, alarmsRaised := (w.afterVerdicts vs).alarmsRaised } := by
  induction vs with
  | nil => exact fun w => rfl
  | cons sv vs ih => exact fun w => ih (w.afterVerdict sv)

theorem Wafer.RecordLaw.afterLatch {w : Wafer} (h : w.RecordLaw) : w.afterLatch.RecordLaw := by
  have alarms := h.toAlarmsLaw.afterLatch
  unfold Wafer.afterLatch at alarms ⊢
  split at alarms
  · exact h
  · exact { alarms, h.toCountersFit with window := h.window }

/-- A latch makes an accepted profile active, or leaves the one that was. -/
theorem Wafer.accepted_afterLatch {w : Wafer} (h : w.ProfilesOk) : w.afterLatch.active.accepted = true := by
  unfold Wafer.afterLatch
  split
  · exact h.1
  · next st hst => exact h.2 st hst

/-- A window that closes leaves an empty one, with room under any profile (R93). -/
theorem Wafer.RecordLaw.afterClose {w : Wafer} (h : w.RecordLaw) (ok : w.ProfilesOk) :
    w.afterClose.RecordLaw ∧ w.afterClose.window.count < w.afterClose.active.window := by
  have verdicts := Wafer.RecordLaw.afterVerdicts w.closing h ok.1 fun sv hsv => Wafer.judges_closing hsv
  have latched := verdicts.afterLatch
  have profiles : (w.afterVerdicts w.closing).ProfilesOk := by
    rw [Wafer.afterVerdicts_rest]
    exact ok
  obtain ⟨window, -⟩ := Profile.accepted_ranges (Wafer.accepted_afterLatch profiles)
  refine ⟨{ latched with windowsClosed := bump_le _, window := Window.law_empty }, ?_⟩
  exact (Nat.zero_lt_succ 15).trans_le window

theorem runAfter_le {n : Nat} (h : n ≤ countCap) (c : BinClass) : runAfter n c ≤ countCap := by
  cases c with
  | fail => exact bump_le n
  | pass => exact Nat.zero_le _
  | unused => exact h

theorem Wafer.RecordLaw.feed {w : Wafer} (h : w.RecordLaw) (retest : Bool) (n : SiteId) (r : Bin) {c : BinClass}
    (hc : c ≠ .unused) : (w.feed retest n r c).RecordLaw := by
  have retests : (if retest then bump w.retestResults else w.retestResults) ≤ countCap := by
    split
    · exact bump_le _
    · exact h.retestResults
  exact { h with
    resultsApplied := bump_le _
    retestResults := retests
    run := runAfter_le h.run c
    window := h.window.feed w.active.watched n r hc }

/-- A result that is fed keeps the law of the record, and leaves room in its window (R78, R82). -/
theorem Wafer.RecordLaw.fed {w : Wafer} (h : w.RecordLaw) (room : w.window.count < w.active.window) (ok : w.ProfilesOk)
    (retest : Bool) (n : SiteId) (r : Bin) {c : BinClass} (hc : c ≠ .unused) :
    (w.fed retest n r c).RecordLaw ∧ (w.fed retest n r c).window.count < (w.fed retest n r c).active.window := by
  have ran : (w.feed retest n r c).afterRun.RecordLaw := (h.feed retest n r hc).afterVerdict ok.1 (runSource_judged _)
  unfold Wafer.fed Wafer.afterFull
  split
  · exact ran.afterClose ok
  · next short =>
    refine ⟨ran, lt_of_le_of_ne ?_ short⟩
    exact room

end Sys2Proof.Machine
end

section
/-! PROOFS. Sums of bin counters and counts of cells, and what one write of a cell and one move of a die between bins
make of them (R71, R76, R84; for O16). -/
namespace Sys2Proof.Machine

/-! ### Sums of bin counters -/

/-- The sum of the bin counters over the bins that a test picks. -/
def binSum (P : Bin → Bool) (v : Vector Nat 64) : Nat := ∑ b, if P b then tabGet v b else 0

theorem binSum_modify (P : Bin → Bool) (v : Vector Nat 64) (i : Bin) (f : Nat → Nat) :
    binSum P (tabModify v i f) + (if P i then tabGet v i else 0) =
      binSum P v + if P i then f (tabGet v i) else 0 := by
  have differ := sum_differ (f := fun b => if P b then tabGet v b else 0)
    (g := fun b => if P b then tabGet (tabModify v i f) b else 0) i fun j hj => by
      rw [tabGet_tabModify, if_neg hj]
  rw [tabGet_tabModify, if_pos rfl] at differ
  exact differ

/-- One die more in a bin. -/
theorem binSum_succ (P : Bin → Bool) (v : Vector Nat 64) (i : Bin) :
    binSum P (tabModify v i (· + 1)) = binSum P v + if P i then 1 else 0 := by
  have modified := binSum_modify P v i (· + 1)
  cases hP : P i <;> simp only [hP, if_true, Bool.false_eq_true, if_false] at modified ⊢ <;> omega

/-- One die less in a bin that has one. -/
theorem binSum_pred (P : Bin → Bool) {v : Vector Nat 64} {i : Bin} (hv : 1 ≤ tabGet v i) :
    binSum P (tabModify v i (· - 1)) + (if P i then 1 else 0) = binSum P v := by
  have modified := binSum_modify P v i (· - 1)
  cases hP : P i <;> simp only [hP, if_true, Bool.false_eq_true, if_false] at modified ⊢ <;> omega

/-- The tail of the list of bin counters is that of the bins other than 0. -/
theorem tail_sum (v : Vector Nat 64) : (tabList v).tail.sum = binSum (· != 0) v := by
  have whole : (tabList v).sum = tabGet v 0 + (tabList v).tail.sum := by
    rw [tabList_eq_map, List.finRange_succ, List.map_cons, List.sum_cons, List.tail_cons]
  have all : tabGet v 0 + ∑ b ∈ Finset.univ.erase (0 : Bin), tabGet v b = ∑ b, tabGet v b :=
    Finset.add_sum_erase Finset.univ (tabGet v) (Finset.mem_univ (0 : Bin))
  have picked := Finset.add_sum_erase Finset.univ (fun b : Bin => if b != 0 then tabGet v b else 0) (Finset.mem_univ 0)
  rw [if_neg (by decide), Nat.zero_add] at picked
  have rest : ∑ b ∈ Finset.univ.erase (0 : Bin), (if b != 0 then tabGet v b else 0) =
      ∑ b ∈ Finset.univ.erase (0 : Bin), tabGet v b :=
    Finset.sum_congr rfl fun b hb => if_pos (bne_iff_ne.mpr (Finset.ne_of_mem_erase hb))
  rw [tabList_sum] at whole
  show _ = ∑ b : Bin, if b != 0 then tabGet v b else 0
  omega

theorem State.classSum_eq (s : State) (w : Wafer) (c : BinClass) :
    s.classSum w c = binSum (fun b => s.binClass b == c) w.bins := by
  unfold State.classSum binSum
  rw [tabList_sum]
  refine Finset.sum_congr rfl fun b _ => ?_
  simp only [beq_iff_eq]
  exact Vector.getElem_ofFn b.isLt

/-- A counter picked is no more than the sum. -/
theorem le_binSum {P : Bin → Bool} {b : Bin} (hb : P b = true) (v : Vector Nat 64) : tabGet v b ≤ binSum P v := by
  have single := Finset.single_le_sum (f := fun b => if P b then tabGet v b else 0) (s := Finset.univ)
    (fun _ _ => Nat.zero_le _) (Finset.mem_univ b)
  rw [if_pos hb] at single
  exact single

/-- Sums over bins that no two tests pick both. -/
theorem binSum_add_le {P Q R : Bin → Bool} (v : Vector Nat 64) (hP : ∀ b, P b = true → R b = true)
    (hQ : ∀ b, Q b = true → R b = true ∧ P b = false) : binSum P v + binSum Q v ≤ binSum R v := by
  unfold binSum
  rw [← Finset.sum_add_distrib]
  refine Finset.sum_le_sum fun b _ => ?_
  cases p : P b with
  | true =>
    have q : Q b = false := Bool.eq_false_iff.mpr fun q => Bool.noConfusion (p.symm.trans (hQ b q).2)
    rw [q, hP b p]
    exact Nat.le_refl _
  | false =>
    cases q : Q b with
    | true => rw [(hQ b q).1]; exact (Nat.zero_add _).le
    | false => exact Nat.zero_le _

/-! ### Counts of cells -/

theorem length_filter_range (g : Nat → Bool) (n : Nat) :
    ((List.range n).filter g).length = ∑ k : Fin n, if g k then 1 else 0 := by
  rw [← Finset.sum_range fun k => if g k then 1 else 0]
  induction n with
  | zero => rfl
  | succ n ih =>
    rw [List.range_succ, List.filter_append, List.length_append, ih, Finset.sum_range_succ]
    cases hg : g n <;> simp [hg]

theorem State.cellsWhere_eq (s : State) (w : Wafer) (f : Byte → Bool) :
    s.cellsWhere w f = ∑ k : Fin (w.rows * w.columns), if f (mapRead (w.base + k) s.map) then 1 else 0 :=
  length_filter_range (fun n => f (mapRead (w.base + n) s.map)) _

/-- Wafers of one place have the same cells where the cells of the place read the same. -/
theorem State.cellsWhere_congr {s t : State} {v w : Wafer} (rows : v.rows = w.rows) (columns : v.columns = w.columns)
    (base : v.base = w.base)
    (same : ∀ k, k < w.rows * w.columns → mapRead (w.base + k) t.map = mapRead (w.base + k) s.map) (f : Byte → Bool) :
    t.cellsWhere v f = s.cellsWhere w f := by
  unfold State.cellsWhere
  rw [rows, columns, base]
  refine congrArg List.length (List.filter_congr fun k hk => ?_)
  rw [same k (List.mem_range.mp hk)]

/-- One cell of a wafer is written. -/
theorem State.cellsWhere_write {s t : State} (wf : mapWf s.map) {w : Wafer} {k : Nat} (hk : k < w.rows * w.columns) {x : Byte}
    (ht : t.map = mapWrite (w.base + k) x s.map) (f : Byte → Bool) :
    t.cellsWhere w f + (if f (mapRead (w.base + k) s.map) then 1 else 0) = s.cellsWhere w f + if f x then 1 else 0 := by
  rw [State.cellsWhere_eq, State.cellsWhere_eq, ht]
  have differ := sum_differ (f := fun k : Fin (w.rows * w.columns) => if f (mapRead (w.base + k) s.map) then 1 else 0)
    (g := fun j : Fin (w.rows * w.columns) => if f (mapRead (w.base + j) (mapWrite (w.base + k) x s.map)) then 1 else 0)
    ⟨k, hk⟩ fun j hj => by
      rw [mapRead_mapWrite wf, if_neg fun e => hj (Fin.ext (Nat.add_left_cancel e))]
  rw [mapRead_mapWrite wf, if_pos rfl] at differ
  exact differ

end Sys2Proof.Machine
end

section
/-! PROOFS. A record's counts against its cells and the bin classes, and how a first test and a retest keep them
(R71 to R76, R84; for O16). -/
namespace Sys2Proof.Machine

/-- What the count law says of one record (R84). -/
structure State.Tallied (s : State) (w : Wafer) : Prop where
  sum : (tabList w.bins).tail.sum = w.tested
  cells : w.tested = s.cellsWhere w fun c => cellCount c != 0
  dies : w.passDies + w.failDies = w.tested
  each : ∀ b : Bin, b ≠ 0 → tabGet w.bins b = s.cellsWhere w fun c => cellCount c != 0 && cellBin c == b
  classes : w.state.isBound = true → w.passDies = s.classSum w .pass ∧ w.failDies = s.classSum w .fail

theorem State.countLaw_iff (s : State) : s.CountLaw ↔ ∀ i w, s.waferAt i = some w → s.Tallied w :=
  ⟨fun h i w hw => have ⟨sum, cells, dies, each, classes⟩ := h i w hw; ⟨sum, cells, dies, each, classes⟩,
    fun h i w hw => have k := h i w hw; ⟨k.sum, k.cells, k.dies, k.each, k.classes⟩⟩

/-- What the counts of a record are kept in, and the cells they are about. -/
def Wafer.tally (w : Wafer) : (Nat × Nat × Nat) × Vector Nat 64 × Nat × Nat × Nat :=
  ((w.rows, w.columns, w.base), w.bins, w.tested, w.passDies, w.failDies)

section
variable {s t : State} {v w : Wafer}

/-- A record of the same counts and cells, bound under the same bin classes or not bound. -/
theorem State.Tallied.carry (h : s.Tallied w) (tally : v.tally = w.tally)
    (bound : v.state.isBound = true → w.state.isBound = true ∧ t.bins = s.bins)
    (same : ∀ k, k < w.rows * w.columns → mapRead (w.base + k) t.map = mapRead (w.base + k) s.map) : t.Tallied v := by
  simp only [Wafer.tally, Prod.mk.injEq] at tally
  obtain ⟨⟨rows, columns, base⟩, bins, tested, passDies, failDies⟩ := tally
  have cells := State.cellsWhere_congr rows columns base same
  refine ⟨?_, ?_, ?_, fun b hb => ?_, fun hv => ?_⟩
  · rw [bins, tested]; exact h.sum
  · rw [cells, tested]; exact h.cells
  · rw [passDies, failDies, tested]; exact h.dies
  · rw [cells, bins]; exact h.each b hb
  · obtain ⟨hw, table⟩ := bound hv
    have classes : ∀ c, t.classSum v c = s.classSum w c := fun c => by
      unfold State.classSum State.binClass
      rw [table, bins]
    rw [passDies, failDies, classes, classes]
    exact h.classes hw

theorem State.Tallied.passDies_le (h : s.Tallied w) : w.passDies ≤ w.tested := h.dies ▸ Nat.le_add_right _ _

theorem State.Tallied.bins_le (h : s.Tallied w) {b : Bin} (hb : b ≠ 0) : tabGet w.bins b ≤ w.tested := by
  rw [← h.sum, tail_sum]
  exact le_binSum (P := fun b => b != 0) (bne_iff_ne.mpr hb) w.bins

/-- A record without a test, over untested cells. -/
theorem State.tallied_new (bins : w.bins = Vector.replicate 64 0) (tested : w.tested = 0) (pass : w.passDies = 0)
    (fail : w.failDies = 0) (cells : ∀ k, k < w.rows * w.columns → mapRead (w.base + k) s.map = 0) : s.Tallied w := by
  have none : ∀ f : Byte → Bool, f 0 = false → s.cellsWhere w f = 0 := fun f hf => by
    rw [State.cellsWhere_eq]
    exact Finset.sum_eq_zero fun k _ => by rw [cells k k.isLt, hf]; rfl
  have zero : ∀ P, binSum P w.bins = 0 := fun P => Finset.sum_eq_zero fun b _ => by
    rw [bins, tabGet_replicate, ite_self]
  refine ⟨?_, ?_, ?_, fun b _ => ?_, fun _ => ⟨?_, ?_⟩⟩
  · rw [tail_sum, zero, tested]
  · rw [none _ rfl, tested]
  · rw [pass, fail, tested]
  · rw [none _ rfl, bins, tabGet_replicate]
  · rw [State.classSum_eq, zero, pass]
  · rw [State.classSum_eq, zero, fail]

/-- A die's first test, of a bin in use (R71). -/
theorem State.Tallied.firstTest (h : s.Tallied w) (wf : mapWf s.map) {k : Nat} (hk : k < w.rows * w.columns)
    (untested : cellCount (mapRead (w.base + k) s.map) = 0) {r : Bin} (hr : r ≠ 0) (hc : s.binClass r ≠ .unused)
    (ht : t.map = mapWrite (w.base + k) (mkCell 1 r) s.map) (hb : t.bins = s.bins) :
    t.Tallied (w.firstTest r (s.binClass r)) := by
  have written := State.cellsWhere_write wf hk ht
  have own : ∀ f, t.cellsWhere (w.firstTest r (s.binClass r)) f = t.cellsWhere w f :=
    State.cellsWhere_congr rfl rfl rfl fun _ _ => rfl
  have sums : ∀ P, binSum P (w.firstTest r (s.binClass r)).bins = binSum P w.bins + if P r then 1 else 0 := fun P =>
    binSum_succ P w.bins r
  have table : t.binClass = s.binClass := by unfold State.binClass; rw [hb]
  refine ⟨?_, ?_, ?_, fun b hb0 => ?_, fun hw => ?_⟩
  · rw [tail_sum, sums, if_pos (bne_iff_ne.mpr hr), ← tail_sum, h.sum]
    rfl
  · have tested := written fun c => cellCount c != 0
    rw [untested, cellCount_mkCell (by decide), if_neg (by decide), if_pos (by decide), ← h.cells] at tested
    rw [own]
    exact tested.symm
  · have dies := h.dies
    show (if s.binClass r = .pass then w.passDies + 1 else w.passDies) +
      (if s.binClass r = .fail then w.failDies + 1 else w.failDies) = w.tested + 1
    cases hcr : s.binClass r with
    | unused => exact (hc hcr).elim
    | pass => rw [if_pos rfl, if_neg BinClass.noConfusion]; omega
    | fail => rw [if_neg BinClass.noConfusion, if_pos rfl]; omega
  · have each := written fun c => cellCount c != 0 && cellBin c == b
    rw [untested, cellCount_mkCell (by decide), cellBin_mkCell, if_neg (fun e => Bool.noConfusion e), ← h.each b hb0] at each
    rw [own]
    refine Eq.trans ?_ each.symm
    show tabGet (tabModify w.bins r (· + 1)) b = _
    rw [tabGet_tabModify]
    by_cases e : b = r
    · rw [if_pos e, if_pos (by rw [e]; simp), e]
    · rw [if_neg e, if_neg (by simpa using Ne.symm e)]
      rfl
  · obtain ⟨pass, fail⟩ := h.classes hw
    rw [State.classSum_eq] at pass fail
    rw [State.classSum_eq, State.classSum_eq, sums, sums, table, ← pass, ← fail]
    show (if s.binClass r = .pass then w.passDies + 1 else w.passDies) = _ ∧
      (if s.binClass r = .fail then w.failDies + 1 else w.failDies) = _
    cases s.binClass r <;> exact ⟨rfl, rfl⟩

/-- The bin of a die of a bound record is in use: the dies of the other bins make up tested-dies (R84). -/
theorem State.Tallied.class_ne (h : s.Tallied w) (bound : w.state.isBound = true) (bin0 : tabGet s.bins 0 = .unused)
    {b : Bin} (hb : b ≠ 0) (dies : 1 ≤ tabGet w.bins b) : s.binClass b ≠ .unused := fun unused => by
  obtain ⟨pass, fail⟩ := h.classes bound
  rw [State.classSum_eq] at pass fail
  have sum := h.sum
  have all := h.dies
  rw [tail_sum] at sum
  have used := binSum_add_le (P := fun b => s.binClass b == .pass) (Q := fun b => s.binClass b == .fail)
    (R := fun b => s.binClass b != .unused) w.bins (fun x hx => by rw [beq_iff_eq.mp hx]; rfl) fun x hx => by
      rw [beq_iff_eq.mp hx]; exact ⟨rfl, rfl⟩
  have rest := binSum_add_le (P := fun b => s.binClass b != .unused) (Q := (· == b)) (R := (· != 0)) w.bins
    (fun x hx => bne_iff_ne.mpr fun e => bne_iff_ne.mp hx (e ▸ bin0)) fun x hx => by
      obtain rfl : x = b := beq_iff_eq.mp hx
      exact ⟨bne_iff_ne.mpr hb, by rw [unused]; rfl⟩
  have here := le_binSum (P := (· == b)) (b := b) (beq_self_eq_true b) w.bins
  omega

/-- A record whose die moves from bin `b` to bin `k`, with other dies counts. -/
def Wafer.moved (w : Wafer) (b k : Bin) (pass fail : Nat) : Wafer :=
  { w with bins := tabModify (tabModify w.bins b (· - 1)) k (· + 1), passDies := pass, failDies := fail }

/-- A retest moves its die between bins in use (R76). -/
theorem Wafer.retest_eq (w : Wafer) (cls : Bin → BinClass) {b k : Bin} (hk : k ≠ b) (hb : cls b ≠ .unused)
    (hc : cls k ≠ .unused) : w.retest cls b k = w.moved b k
      (w.passDies + (if cls k = .pass then 1 else 0) - if cls b = .pass then 1 else 0)
      (w.failDies + (if cls k = .fail then 1 else 0) - if cls b = .fail then 1 else 0) := by
  unfold Wafer.retest Wafer.moved
  rw [if_neg hk]
  cases hcb : cls b with
  | unused => exact (hb hcb).elim
  | pass =>
    cases hck : cls k with
    | unused => exact (hc hck).elim
    | pass => rfl
    | fail => rfl
  | fail =>
    cases hck : cls k with
    | unused => exact (hc hck).elim
    | pass => rfl
    | fail => rfl

/-- The sum over bins as a die moves. -/
theorem Wafer.binSum_moved (P : Bin → Bool) {w : Wafer} {b k : Bin} (dies : 1 ≤ tabGet w.bins b)
    (pass fail : Nat) : binSum P (w.moved b k pass fail).bins + (if P b then 1 else 0) =
      binSum P w.bins + if P k then 1 else 0 := by
  have less := binSum_pred P dies
  have more := binSum_succ P (tabModify w.bins b (· - 1)) k
  show binSum P (tabModify (tabModify w.bins b (· - 1)) k (· + 1)) + _ = _
  omega

/-- A record over cells of which only test counts change. -/
theorem State.Tallied.recounted (h : s.Tallied w) (table : t.binClass = s.binClass)
    (count : (t.cellsWhere w fun c => cellCount c != 0) = s.cellsWhere w fun c => cellCount c != 0)
    (cells : ∀ y, (t.cellsWhere w fun c => cellCount c != 0 && cellBin c == y) =
      s.cellsWhere w fun c => cellCount c != 0 && cellBin c == y) : t.Tallied w := by
  refine ⟨h.sum, h.cells.trans count.symm, h.dies, fun y hy => (h.each y hy).trans (cells y).symm, fun hw => ?_⟩
  rw [State.classSum_eq, State.classSum_eq, table, ← State.classSum_eq, ← State.classSum_eq]
  exact h.classes hw

/-- A class in use is one of two. -/
theorem BinClass.pass_or_fail {c : BinClass} (hc : c ≠ .unused) :
    (if c = .pass then 1 else 0) + (if c = .fail then 1 else 0) = 1 := by
  cases c with
  | unused => exact (hc rfl).elim
  | pass => rfl
  | fail => rfl

/-- A record whose die moves between bins in use, over cells of which one moves with it. -/
theorem State.Tallied.moved (h : s.Tallied w) (bound : w.state.isBound = true) {b r : Bin} (hb : b ≠ 0) (hr : r ≠ 0)
    (differ : r ≠ b) (dies : 1 ≤ tabGet w.bins b) (usedB : s.binClass b ≠ .unused) (usedR : s.binClass r ≠ .unused)
    (table : t.binClass = s.binClass)
    (count : (t.cellsWhere w fun c => cellCount c != 0) = s.cellsWhere w fun c => cellCount c != 0)
    (moves : ∀ y, (t.cellsWhere w fun c => cellCount c != 0 && cellBin c == y) + (if b = y then 1 else 0) =
      (s.cellsWhere w fun c => cellCount c != 0 && cellBin c == y) + if r = y then 1 else 0) :
    t.Tallied (w.retest s.binClass b r) := by
  rw [w.retest_eq s.binClass differ usedB usedR]
  generalize hp : w.passDies + (if s.binClass r = .pass then 1 else 0) - (if s.binClass b = .pass then 1 else 0) = pass
  generalize hf : w.failDies + (if s.binClass r = .fail then 1 else 0) - (if s.binClass b = .fail then 1 else 0) = fail
  have sums := fun P => Wafer.binSum_moved (k := r) P dies pass fail
  have own : ∀ f, t.cellsWhere (w.moved b r pass fail) f = t.cellsWhere w f :=
    State.cellsWhere_congr rfl rfl rfl fun _ _ => rfl
  obtain ⟨passDies, failDies⟩ := h.classes bound
  rw [State.classSum_eq] at passDies failDies
  have sumP := sums fun b => s.binClass b == .pass
  have sumF := sums fun b => s.binClass b == .fail
  simp only [beq_iff_eq] at sumP sumF
  refine ⟨?_, (h.cells.trans count.symm).trans (own _).symm, ?_, fun y hy => ?_, fun _ => ⟨?_, ?_⟩⟩
  · have all := sums (· != 0)
    rw [if_pos (bne_iff_ne.mpr hb), if_pos (bne_iff_ne.mpr hr), ← tail_sum, ← tail_sum, h.sum] at all
    exact Nat.add_right_cancel all
  · have oneR := BinClass.pass_or_fail usedR
    have oneB := BinClass.pass_or_fail usedB
    have := h.dies
    show pass + fail = w.tested
    omega
  · have each := moves y
    rw [← h.each y hy] at each
    rw [own]
    show tabGet (tabModify (tabModify w.bins b (· - 1)) r (· + 1)) y = _
    rw [tabGet_tabModify, tabGet_tabModify, tabGet_tabModify, if_neg differ]
    by_cases yr : y = r
    · subst yr
      rw [if_neg (Ne.symm differ), if_pos rfl] at each
      rw [if_pos rfl]
      exact each.symm
    · rw [if_neg (Ne.symm yr)] at each
      rw [if_neg yr]
      by_cases yb : y = b
      · subst yb
        rw [if_pos rfl] at each
        rw [if_pos rfl]
        omega
      · rw [if_neg (Ne.symm yb)] at each
        rw [if_neg yb]
        exact each.symm
  · rw [State.classSum_eq, table]
    show pass = _
    omega
  · rw [State.classSum_eq, table]
    show fail = _
    omega

/-- A die's retest, which keeps its bin or moves it to a bin in use (R72 to R76). -/
theorem State.Tallied.retest (h : s.Tallied w) (map : s.MapLaw) (bin0 : tabGet s.bins 0 = .unused) {k : Nat}
    (hk : k < w.rows * w.columns) (tested : cellCount (mapRead (w.base + k) s.map) ≠ 0) (bound : w.state.isBound = true)
    {n : Nat} (h0 : n ≠ 0) (hn : n < 4) {r : Bin}
    (hr : r = cellBin (mapRead (w.base + k) s.map) ∨ s.binClass r ≠ .unused)
    (ht : t.map = mapWrite (w.base + k) (mkCell n r) s.map) (hb : t.bins = s.bins) :
    t.Tallied (w.retest s.binClass (cellBin (mapRead (w.base + k) s.map)) r) := by
  have written := State.cellsWhere_write map.1 hk ht
  have hb0 := map.cellBin_ne tested
  have table : t.binClass = s.binClass := by unfold State.binClass; rw [hb]
  generalize mapRead (w.base + k) s.map = x at *
  generalize hbx : cellBin x = b at *
  have count := written fun c => cellCount c != 0
  have moves := fun y => written fun c => cellCount c != 0 && cellBin c == y
  simp only [cellCount_mkCell hn, cellBin_mkCell, hbx, bne_iff_ne.mpr tested, bne_iff_ne.mpr h0, Bool.true_and, beq_iff_eq,
    if_true] at count moves
  by_cases same : r = b
  · rw [same] at moves
    unfold Wafer.retest
    rw [if_pos same]
    exact h.recounted table (Nat.add_right_cancel count) fun y => Nat.add_right_cancel (moves y)
  · have dies : 1 ≤ tabGet w.bins b := by
      have left := moves b
      rw [if_pos rfl, if_neg same] at left
      rw [h.each b hb0]
      omega
    have used := hr.resolve_left same
    exact h.moved bound hb0 (fun e => used (e ▸ bin0)) same dies (h.class_ne bound bin0 hb0 dies) used table
      (Nat.add_right_cancel count) moves

end

end Sys2Proof.Machine
end

section
/-! PROOFS. The records and the lot entries together, and the changes of a state that keep their laws: those of records
alone, of lot entries, and a wafer's end (R17, R26, R34, R84, R133 to R136; for O16). -/
namespace Sys2Proof.Machine

/-- The laws of a record, with room in its window (R82). -/
structure Wafer.Fits (w : Wafer) : Prop extends w.RecordLaw where
  room : w.window.count < w.active.window

/-- The counters of a lot entry are in range (R17, R133, R136). -/
structure Lot.Fits (e : Lot) : Prop where
  opened : e.opened ≤ countCap
  closed : e.closed ≤ countCap
  abandoned : e.abandoned ≤ countCap
  tested : e.tested ≤ countCap
  pass : e.pass ≤ e.tested
  bins : ∀ b : Bin, b ≠ 0 → tabGet e.bins b ≤ e.tested

/-- The laws of every record and of every lot entry. -/
structure State.Books (s : State) : Prop where
  tallied : ∀ i w, s.waferAt i = some w → s.Tallied w
  fits : ∀ i w, s.waferAt i = some w → w.Fits
  lots : ∀ l e, tabGet s.lots l = some e → e.Fits

/-- The saturating counters of a record, as the counter law lists them. -/
theorem Wafer.countersFit_iff (w : Wafer) : w.CountersFit ↔ ∀ n ∈ [w.resultsApplied, w.retestResults, w.excessResults,
    w.missingSites, w.skippedSites, w.touchdownsApplied, w.touchdownsVoided, w.windowsClosed, w.alarmsRaised, w.run],
    n ≤ countCap := by
  simp only [List.forall_mem_cons, List.not_mem_nil, false_imp_iff, implies_true, and_true]
  exact ⟨fun ⟨a, b, c, d, e, f, g, h, i, j⟩ => ⟨a, b, c, d, e, f, g, h, i, j⟩,
    fun ⟨a, b, c, d, e, f, g, h, i, j⟩ => ⟨a, b, c, d, e, f, g, h, i, j⟩⟩

theorem State.books_iff (s : State) : s.Books ↔ s.CountLaw ∧ s.AlarmLaw ∧ s.WindowLaw ∧ s.CounterLaw := by
  rw [State.countLaw_iff]
  constructor
  · intro h
    refine ⟨h.tallied, fun i w hw => ?_, fun i w hw => ?_, fun i w hw => ?_, fun l e he => ?_⟩
    · have fits := h.fits i w hw
      exact ⟨fits.each, fits.runRecord, fits.surplus⟩
    · have fits := h.fits i w hw
      exact ⟨fits.room, fits.window.sum, fits.window.results, fits.window.fails⟩
    · exact w.countersFit_iff.mp (h.fits i w hw).toCountersFit
    · have fits := h.lots l e he
      exact ⟨fits.opened, fits.closed, fits.abandoned, fits.tested, fits.pass, fits.bins⟩
  · rintro ⟨tallied, alarm, window, counter, lots⟩
    refine ⟨tallied, fun i w hw => ?_, fun l e he => ?_⟩
    · obtain ⟨each, run, surplus⟩ := alarm i w hw
      obtain ⟨room, sum, results, fails⟩ := window i w hw
      exact { w.countersFit_iff.mpr (counter i w hw) with
        each := each, runRecord := run, surplus := surplus, room := room, window := ⟨sum, results, fails⟩ }
    · obtain ⟨opened, closed, abandoned, tested, pass, bins⟩ := lots l e he
      exact ⟨opened, closed, abandoned, tested, pass, bins⟩

section
variable {s t : State} {i : SlotId} {v w : Wafer}

/-- A change of a record that none of the counts of its dies sees, which binds no wafer and keeps the record's laws. -/
structure Wafer.Follows (v w : Wafer) : Prop where
  tally : v.tally = w.tally
  bound : v.state.isBound = true → w.state.isBound = true
  fits : w.Fits → v.Fits

theorem Wafer.Follows.refl (w : Wafer) : w.Follows w := ⟨rfl, id, id⟩

/-- Every record follows one that kept its laws. -/
theorem State.Books.back (h : s.Books) (map : t.map = s.map) (bins : t.bins = s.bins)
    (wafers : ∀ i v, t.waferAt i = some v → ∃ w, s.waferAt i = some w ∧ v.Follows w)
    (lots : ∀ l e, tabGet t.lots l = some e → e.Fits) : t.Books := by
  refine ⟨fun i v hv => ?_, fun i v hv => ?_, lots⟩ <;> obtain ⟨w, hw, follows⟩ := wafers i v hv
  · exact (h.tallied i w hw).carry follows.tally (fun hb => ⟨follows.bound hb, bins⟩) fun _ _ => by rw [map]
  · exact follows.fits (h.fits i w hw)

/-- What the laws of the records and of the lot entries read of a state. -/
def State.ledger (s : State) : List Host.Cell × Vector BinClass 64 × Vector Slot 12 × Vector (Option Lot) 4 :=
  (s.map, s.bins, s.slots, s.lots)

theorem State.Books.same (h : s.Books) (e : t.ledger = s.ledger := by rfl) : t.Books := by
  simp only [State.ledger, Prod.mk.injEq] at e
  obtain ⟨map, bins, slots, lots⟩ := e
  refine h.back map bins (fun i v hv => ⟨v, ?_, .refl v⟩) (lots ▸ h.lots)
  rw [State.waferAt, slots] at hv
  exact hv

/-- A record changes, as `Updates` says. -/
theorem State.Books.updates (h : s.Books) {f : Wafer → Wafer} (u : s.Updates t i f)
    (follows : ∀ w, s.waferAt i = some w → (f w).Follows w) : t.Books := by
  refine h.back u.map u.bins (fun j v hv => ?_) (u.lots ▸ h.lots)
  rw [u.wafer] at hv
  split at hv
  · next e =>
    obtain ⟨w, hw, rfl⟩ := Option.map_eq_some_iff.mp hv
    exact ⟨w, e ▸ hw, follows w hw⟩
  · exact ⟨v, hv, .refl v⟩

theorem State.Books.withWafer (h : s.Books) (i : SlotId) {f : Wafer → Wafer} (follows : ∀ w, s.waferAt i = some w → (f w).Follows w) :
    (s.withWafer i f).Books := h.updates (s.updates_withWafer i f) follows

theorem State.Books.notify (h : s.Books) (n : Notice) : (s.notify n).Books := by
  refine h.same ?_
  unfold State.notify
  split <;> rfl

theorem State.Books.withPort (h : s.Books) (p : PortId) (f : Port → Port) : (s.withPort p f).Books := h.same

theorem State.Books.settleLamps (h : s.Books) : s.settleLamps.Books := h.same

theorem State.Books.queueOutIfUp (h : s.Books) (p : PortId) (f : HeadOut) : (s.queueOutIfUp p f).Books := by
  unfold State.queueOutIfUp
  split
  · exact h.withPort p _
  · exact h

theorem State.Books.judgeHeld (h : s.Books) (p : PortId) (x : Byte) (src : Option Source) : (s.judgeHeld p x src).Books := by
  unfold State.judgeHeld State.holdPort State.freePort
  split
  · exact h
  · split
    · exact (((h.queueOutIfUp p _).withPort p _).notify _).settleLamps
    · exact (((h.queueOutIfUp p _).withPort p _).notify _).settleLamps

theorem State.Books.judgeBound (h : s.Books) (p : Option PortId) (x : Byte) (src : Option Source) :
    (s.judgeBound p x src).Books := by
  cases p with
  | none => exact h
  | some p => exact h.judgeHeld p x src

theorem State.Books.dropAssignAt (h : s.Books) (p : Option PortId) (x : Byte) : (s.dropAssignAt p x).Books := by
  cases p with
  | none => exact h
  | some p => exact h.same

/-! ### Lot entries (R132 to R136) -/

theorem satAdd_le_satAdd {a b c d : Nat} (h : a ≤ b) (k : c ≤ d) : satAdd a c ≤ satAdd b d :=
  min_le_min_right _ (Nat.add_le_add h k)

theorem satAdd_le (n k : Nat) : satAdd n k ≤ countCap := Nat.min_le_right _ _

/-- A closing wafer is rolled in (R133). -/
theorem Lot.Fits.rollUp {e : Lot} (h : e.Fits) (k : s.Tallied w) : (e.rollUp w).Fits := by
  refine ⟨h.opened, bump_le _, h.abandoned, satAdd_le _ _, satAdd_le_satAdd h.pass k.passDies_le, fun b hb => ?_⟩
  have counter : tabGet (e.rollUp w).bins b = satAdd (tabGet e.bins b) (tabGet w.bins b) := Vector.getElem_ofFn b.isLt
  rw [counter]
  exact satAdd_le_satAdd (h.bins b hb) (k.bins_le hb)

theorem Lot.fits_fresh (lot : List Byte) : (Lot.fresh lot).Fits :=
  ⟨Nat.zero_le _, Nat.zero_le _, Nat.zero_le _, Nat.zero_le _, Nat.le_refl 0, fun b _ => by
    rw [Lot.fresh, tabGet_replicate]⟩

theorem State.Books.withLots (h : s.Books) {ls : Vector (Option Lot) 4}
    (hl : ∀ l e, tabGet ls l = some e → e.Fits) : State.Books { s with lots := ls } :=
  h.back (t := { s with lots := ls }) rfl rfl (fun _ v hv => ⟨v, hv, .refl v⟩) hl

/-- One lot entry is set. -/
theorem State.Books.setLot (h : s.Books) (l : LotId) {o : Option Lot} (ho : ∀ e, o = some e → e.Fits) :
    State.Books { s with lots := tabSet s.lots l o } := by
  refine h.withLots fun k e he => ?_
  rw [tabGet_tabSet] at he
  split at he
  · exact ho e he
  · exact h.lots k e he

theorem State.Books.rollUp (h : s.Books) (k : t.Tallied w) (p : Option PortId) (x : Byte) : (s.rollUp w p x).Books := by
  unfold State.rollUp
  split
  · exact h
  · next l _ =>
    split
    · exact h
    · next e he =>
      have rolled := (h.lots l e he).rollUp k
      have judged : ∀ b, Lot.Fits { e.rollUp w with lowReported := b } := fun b => { rolled with }
      dsimp only
      split
      · exact h.setLot l fun e' he' => Option.some.inj he' ▸ rolled
      · split
        · exact (h.setLot l fun e' he' => Option.some.inj he' ▸ judged _).notify _
        · exact h.setLot l fun e' he' => Option.some.inj he' ▸ judged _

theorem State.Books.countAbandoned (h : s.Books) (w : Wafer) : (s.countAbandoned w).Books := by
  unfold State.countAbandoned
  split
  · exact h
  · next l _ =>
    refine h.setLot l fun e he => ?_
    obtain ⟨d, hd, rfl⟩ := Option.map_eq_some_iff.mp he
    exact { h.lots l d hd with abandoned := bump_le _ }

theorem State.Books.joinLot (h : s.Books) (l : LotId) (lot : List Byte) : (s.joinLot l lot).Books := by
  refine h.setLot l fun e he => ?_
  obtain rfl := Option.some.inj he
  have old : ((tabGet s.lots l).getD (Lot.fresh lot)).Fits := by
    cases hl : tabGet s.lots l with
    | none => exact Lot.fits_fresh lot
    | some d => exact h.lots l d hl
  exact { old with opened := bump_le _ }

/-! ### A wafer's end (R26, R34) -/

theorem Wafer.follows_close (w : Wafer) (c : CloseCause) : (w.close c).Follows w :=
  ⟨rfl, fun h => Bool.noConfusion h, fun h => { h with }⟩

theorem Wafer.follows_abandon (w : Wafer) : w.abandon.Follows w :=
  ⟨rfl, fun h => Bool.noConfusion h, fun h => { h with }⟩

theorem State.Books.enterClosed (h : s.Books) (i : SlotId) (c : CloseCause) : (s.enterClosed i c).Books := by
  cases hw : s.waferAt i with
  | none =>
    unfold State.enterClosed
    rw [hw]
    exact h
  | some w =>
    rw [State.enterClosed_eq hw]
    have closed := h.withWafer i fun w _ => w.follows_close c
    exact ((((closed.dropAssignAt _ _).notify _).rollUp (h.tallied i w hw) _ _).judgeBound _ _ _).settleLamps

theorem State.Books.enterAbandoned (h : s.Books) (i : SlotId) : (s.enterAbandoned i).Books := by
  cases hw : s.waferAt i with
  | none =>
    unfold State.enterAbandoned
    rw [hw]
    exact h
  | some w =>
    rw [State.enterAbandoned_eq hw]
    have abandoned := h.withWafer i fun w _ => w.follows_abandon
    exact (((abandoned.dropAssignAt _ _).countAbandoned w).judgeBound _ _ _).settleLamps

/-! ### The loss of a head (R28, R60, R158) -/

theorem State.Books.foldl {α : Type} {f : State → α → State} (hf : ∀ (u : State) x, u.Books → (f u x).Books) (xs : List α) :
    ∀ {s : State}, s.Books → (xs.foldl f s).Books := by
  induction xs with
  | nil => exact id
  | cons x xs ih => exact fun h => ih (hf _ x h)

/-- Voided entries are counted against a record (R60, R61). -/
theorem Wafer.follows_voided (w : Wafer) {n : Nat} (hn : n ≤ countCap) : Wafer.Follows { w with touchdownsVoided := n } w :=
  ⟨rfl, id, fun h => { h with touchdownsVoided := hn }⟩

/-- A wafer's state changes among the bound ones. -/
theorem Wafer.follows_state (hw : w.state.isBound = true) (st : WaferState) (p : Option PortId) (n : Word32) :
    Wafer.Follows { w with state := st, boundPort := p, serial := n } w :=
  ⟨rfl, fun _ => hw, fun h => { h with }⟩

theorem State.Books.countVoided (h : s.Books) (e : Entry) : (s.countVoided e).Books := by
  unfold State.countVoided
  split
  · exact h.withWafer _ fun w _ => w.follows_voided (bump_le _)
  · exact h

theorem State.Books.closeIfDraining (h : s.Books) (p : PortId) (i : SlotId) : (s.closeIfDraining p i).Books := by
  show (State.closeIfDraining p s i).Books
  unfold State.closeIfDraining
  split
  · split
    · exact h.enterClosed i _
    · exact h
  · exact h

theorem State.Books.suspendIfActive (h : s.Books) (p : PortId) (i : SlotId) : (s.suspendIfActive p i).Books := by
  show (State.suspendIfActive p s i).Books
  unfold State.suspendIfActive
  split
  · next w hw =>
    split
    · next hc =>
      refine (h.withWafer i fun v hv => Wafer.follows_state ?_ .suspended v.boundPort v.serial).notify _
      obtain rfl : w = v := Option.some.inj (hw.symm.trans hv)
      rw [hc.1]
      rfl
    · exact h
  · exact h

theorem State.Books.lose (h : s.Books) (p : PortId) (cause : LossCause) : (s.lose p cause).Books := by
  have voided : (s.voidAll p).Books := (State.Books.foldl (fun u e hu => hu.countVoided e) _ h).withPort p _
  have unmanned : (s.unmanned p).Books := by
    unfold State.unmanned
    generalize s.voidAll p = u at *
    exact .foldl (fun u i hu => hu.suspendIfActive p i) _ (.foldl (fun u i hu => hu.closeIfDraining p i) _ voided)
  rw [State.lose_eq]
  generalize s.unmanned p = u at *
  exact ((unmanned.withPort p _).notify _).settleLamps

end

end Sys2Proof.Machine
end

section
/-! PROOFS. The books through the application of a site, of an entry, the application pass and the voiding of a wafer
(R55, R56, R61, R67 to R83; for O16). -/
namespace Sys2Proof.Machine

section
variable {X : SlotId → Prop} {s t : State} {p : PortId} {i : SlotId} {w : Wafer}

/-! ### One record -/

theorem Wafer.tally_afterVerdicts (vs : List (Source × Verdict)) (w : Wafer) :
    (w.afterVerdicts vs).tally = w.tally ∧ (w.afterVerdicts vs).state = w.state := by
  rw [Wafer.afterVerdicts_rest]
  exact ⟨rfl, rfl⟩

theorem Wafer.tally_afterLatch (w : Wafer) : w.afterLatch.tally = w.tally ∧ w.afterLatch.state = w.state := by
  unfold Wafer.afterLatch
  split <;> exact ⟨rfl, rfl⟩

/-- A result that is fed leaves the counts of the dies. -/
theorem Wafer.tally_fed (w : Wafer) (retest : Bool) (n : SiteId) (r : Bin) (c : BinClass) :
    (w.fed retest n r c).tally = w.tally ∧ (w.fed retest n r c).state = w.state := by
  unfold Wafer.fed Wafer.afterFull
  split
  · generalize hx : (w.feed retest n r c).afterRun = x
    have ran : x.tally = w.tally ∧ x.state = w.state := by rw [← hx]; exact ⟨rfl, rfl⟩
    have verdicts := x.tally_afterVerdicts x.closing
    have latched := (x.afterVerdicts x.closing).tally_afterLatch
    exact ⟨latched.1.trans (verdicts.1.trans ran.1), latched.2.trans (verdicts.2.trans ran.2)⟩
  · exact ⟨rfl, rfl⟩

theorem Wafer.follows_fed (ok : w.ProfilesOk) (retest : Bool) (n : SiteId) (r : Bin) {c : BinClass} (hc : c ≠ .unused) :
    (w.fed retest n r c).Follows w := by
  obtain ⟨tally, state⟩ := w.tally_fed retest n r c
  refine ⟨tally, fun h => state ▸ h, fun h => ?_⟩
  obtain ⟨law, room⟩ := h.toRecordLaw.fed h.room ok retest n r hc
  exact { law with room := room }

/-- A result of a bin in use is fed to the wafer of a slot. -/
theorem State.Books.feedResult (h : s.Books) (ok : ∀ w, s.waferAt i = some w → w.ProfilesOk) (retest : Bool) (n : SiteId) {r : Bin}
    (hr : s.binClass r ≠ .unused) : (s.feedResult i retest n r).Books :=
  h.updates (s.updates_feedResult i retest n r) fun w hw => Wafer.follows_fed (ok w hw) retest n r hr

/-! ### One site (R68 to R77) -/

theorem Wafer.fits_retest (h : w.Fits) (cls : Bin → BinClass) (b k : Bin) : (w.retest cls b k).Fits := by
  unfold Wafer.retest
  split
  · exact h
  · dsimp only
    split <;> exact { h with }

/-- A wafer's grid lies in its block (R7). -/
theorem State.BlockLaw.grid_within (h : s.BlockLaw) (hw : s.waferAt i = some w) : w.rows * w.columns ≤ w.size := by
  obtain ⟨grid, size, -, -⟩ := h.1 i w hw
  obtain ⟨-, -, -, -, dies⟩ := (gridOk_iff _ _).mp grid
  exact size ▸ le_blockSizeFor dies

/-- A cell of a wafer is written, and its record changed with it. -/
theorem State.Books.writeCell (h : s.Books) (store : s.StoreLaw) (hw : s.waferAt i = some w) {k : Nat}
    (hk : k < w.rows * w.columns) {x : Byte} {f : Wafer → Wafer}
    (ht : t = { s with map := mapWrite (w.base + k) x s.map }.withWafer i f) (tallied : t.Tallied (f w))
    (fits : (f w).Fits) : t.Books := by
  have wafer : ∀ j, t.waferAt j = if j = i then (s.waferAt i).map f else s.waferAt j := fun j => by
    rw [ht]
    exact State.waferAt_withWafer _ _ _ _
  have bins : t.bins = s.bins := by rw [ht]; rfl
  have map : t.map = mapWrite (w.base + k) x s.map := by rw [ht]; rfl
  have other : ∀ {j v}, j ≠ i → t.waferAt j = some v → s.waferAt j = some v := fun {j v} hj hv => by
    rw [wafer, if_neg hj] at hv
    exact hv
  have here : ∀ {j v}, j = i → t.waferAt j = some v → v = f w := fun {j v} hj hv => by
    rw [wafer, if_pos hj, hw] at hv
    exact (Option.some.inj hv).symm
  refine ⟨fun j v hv => ?_, fun j v hv => ?_, by rw [ht]; exact h.lots⟩ <;> by_cases hj : j = i
  · exact here hj hv ▸ tallied
  · have old := other hj hv
    refine (h.tallied j v old).carry rfl (fun hb => ⟨hb, bins⟩) fun m hm => ?_
    rw [map, mapRead_mapWrite store.map.1, if_neg]
    have apart := store.block.2 j i hj v old w hw
    have inV := store.block.grid_within old
    have inW := store.block.grid_within hw
    omega
  · exact here hj hv ▸ fits
  · exact h.fits j v (other hj hv)

theorem Wafer.cellAddress_eq (w : Wafer) (column row : Nat) :
    w.cellAddress column row = w.base + (row * w.columns + column) := Nat.add_assoc _ _ _

/-- A site of an entry is applied to its wafer. -/
theorem State.Books.applySite (h : s.Books) (store : s.StoreLaw) (hw : s.waferAt i = some w) (bound : w.state.isBound = true)
    {d : SiteEntry} (hd : s.SiteLaw w d) : (s.applySite i d).Books := by
  obtain ⟨column, row, result⟩ := hd
  have inside : d.row * w.columns + d.column < w.rows * w.columns := by
    have := Wafer.cellAddress_lt column row
    rw [Wafer.cellAddress_eq] at this
    exact Nat.lt_of_add_lt_add_left this
  have tallied := h.tallied i w hw
  have fits := h.fits i w hw
  have ok := store.profiles i w hw
  -- the record written, as it is fed
  have record : ∀ {m : List Host.Cell} {f : Wafer → Wafer} {v},
      ({ s with map := m }.withWafer i f : State).waferAt i = some v → v = f w := fun {m f v} hv => by
    rw [State.waferAt_withWafer, if_pos rfl] at hv
    obtain ⟨x, hx, rfl⟩ := Option.map_eq_some_iff.mp hv
    rw [Option.some.inj (hw.symm.trans hx)]
  show (State.applySite i s d).Books
  unfold State.applySite
  rw [hw]
  dsimp only
  split
  · exact h.withWafer i fun _ _ => ⟨rfl, id, fun f => { f with missingSites := bump_le _ }⟩
  · next r hr =>
    split
    · exact h.withWafer i fun _ _ => ⟨rfl, id, fun f => { f with skippedSites := bump_le _ }⟩
    · next r0 =>
      have used := (result r hr).resolve_left r0
      rw [Wafer.cellAddress_eq]
      split
      · next untested =>
        refine State.Books.feedResult (h.writeCell store hw inside rfl ?_ { fits with }) (fun v hv => ?_) _ _ used
        · exact tallied.firstTest store.map.1 inside untested r0 used rfl rfl
        · rw [record hv]
          exact ok
      · next tested =>
        split
        · exact h.withWafer i fun _ _ => ⟨rfl, id, fun f => { f with excessResults := bump_le _ }⟩
        · next short =>
          have room : cellCount (mapRead (w.base + (d.row * w.columns + d.column)) s.map) + 1 < 4 := by
            have := (mapRead (w.base + (d.row * w.columns + d.column)) s.map).isLt
            unfold cellCount at short ⊢
            omega
          refine State.Books.feedResult (h.writeCell store hw inside rfl ?_ (Wafer.fits_retest fits _ _ _)) (fun v hv => ?_)
            _ _ used
          · refine tallied.retest store.map store.bin0 inside tested bound (Nat.succ_ne_zero _) room ?_ rfl rfl
            exact (keptBin_eq_or _ _ _ _).imp_right fun e => by rw [e]; exact used
          · rw [record hv]
            exact ok.retest _ _ _

/-! ### One entry, and the pass (R55, R56, R67, R83) -/

/-- The laws that the pass leans on, with the books: those of the heads but for the wafers of `X`, and of the store. -/
structure State.Passes (X : SlotId → Prop) (s : State) : Prop where
  heads : s.Heads X
  store : s.StoreLaw
  books : s.Books

theorem State.EntryLaw.fits {e : Entry} (h : s.EntryLaw p e) (block : s.BlockLaw) : s.EntryFits e := by
  obtain ⟨⟨j, hj, v, hv, -, -, sites⟩, -⟩ := h
  intro i w hi hw d hd
  obtain rfl : j = i := Option.some.inj (hj.symm.trans hi)
  obtain rfl : v = w := Option.some.inj (hv.symm.trans hw)
  obtain ⟨column, row, -⟩ := sites d hd
  exact Nat.lt_of_lt_of_le (Wafer.cellAddress_lt column row) (block.grid_inside hw)

/-- A site of a listed entry is applied to the wafer that the entry names. -/
theorem State.Passes.applySite (h : s.Passes X) {e : Entry} (he : e ∈ (s.port p).touchdowns)
    (hi : s.resolve e.handle = some i) {d : SiteEntry} (hd : d ∈ e.sites) : (s.applySite i d).Passes X := by
  have entry := (h.heads.list p).entries e he
  have fits := entry.fits h.store.block
  obtain ⟨⟨j, hj, w, hw, hp, -, sites⟩, -⟩ := entry
  obtain rfl : j = i := Option.some.inj (hj.symm.trans hi)
  refine ⟨((State.Quiet.refl s).applySite j d).heads h.heads, ?_,
    h.books.applySite h.store hw (h.heads.binding.isBound hw hp) (sites d hd)⟩
  exact ((State.KeepsStore.refl s).applySite j d fun v hv => fits j v hi hv d hd).law h.store

theorem State.Passes.applySites {e : Entry} (i : SlotId) (ds : List SiteEntry) : ∀ {s : State}, s.Passes X →
    e ∈ (s.port p).touchdowns → s.resolve e.handle = some i → (∀ d ∈ ds, d ∈ e.sites) →
    (ds.foldl (State.applySite i) s).Passes X := by
  induction ds with
  | nil => exact fun h _ _ _ => h
  | cons d ds ih =>
    intro s h he hi hds
    have quiet := (State.Quiet.refl s).applySite i d
    refine ih (h.applySite he hi (hds d List.mem_cons_self)) ?_ ((quiet.resolve _).trans hi) fun x hx =>
      hds x (List.mem_cons_of_mem _ hx)
    exact (quiet.touchdowns p).symm ▸ he

theorem State.Passes.applyEntry (h : s.Passes X) {e : Entry} (he : e ∈ (s.port p).touchdowns) : (s.applyEntry e).Books := by
  unfold State.applyEntry
  split
  · exact h.books
  · next i hi =>
    have applied := h.applySites i e.ascending he hi fun d hd => Entry.mem_ascending.mp hd
    exact applied.books.withWafer i fun _ _ => ⟨rfl, id, fun f => { f with touchdownsApplied := bump_le _ }⟩

theorem State.Books.drainClose (h : s.Books) (x : Byte) (rest : List Entry) : (s.drainClose x rest).Books := by
  unfold State.drainClose
  split
  · exact h
  · split
    · exact h
    · split
      · exact h.enterClosed _ _
      · exact h

theorem State.Passes.passOne (h : s.Passes X) {e : Entry} {rest : List Entry} (hs : (s.port p).touchdowns = e :: rest) :
    (s.passOne p e rest).Passes X := by
  have he : e ∈ (s.port p).touchdowns := by rw [hs]; exact List.mem_cons_self
  refine ⟨h.heads.passOne hs, ?_, ?_⟩
  · have applied := (State.KeepsStore.refl s).applyEntry (((h.heads.list p).entries e he).fits h.store.block)
    exact ((applied.setTouchdowns p rest).drainClose e.handle rest).law h.store
  · exact ((h.applyEntry he).withPort p _).drainClose e.handle rest

theorem State.Passes.runPass (h : s.Passes X) (p : PortId) : (s.runPass p).Passes X :=
  State.pass_induction p (fun _ _ _ h hs _ => h.passOne hs) _ s rfl h

/-! ### The voiding of a wafer's entries (R61) -/

theorem State.Passes.voidWafer (h : s.Passes X) (p : PortId) (i : SlotId) : (s.voidWafer p i (s.handleOf i)).Books := by
  have counted : ∀ n, (s.withWafer i fun w => { w with touchdownsVoided := satAdd w.touchdownsVoided n }).Passes X := fun n =>
    ⟨((State.Quiet.refl s).withWafer i _).heads h.heads, ((State.KeepsStore.refl s).withWafer i _).law h.store,
      h.books.withWafer i fun w _ => w.follows_voided (satAdd_le _ _)⟩
  have removed : ∀ n, ((s.withWafer i fun w => { w with touchdownsVoided := satAdd w.touchdownsVoided n }).setTouchdowns p
      ((s.port p).touchdowns.filter fun e => e.handle != s.handleOf i)).Passes fun j => X j ∨ j = i := fun n => by
    have heads := (counted n).heads.withdraw p i
    rw [State.handleOf, State.generation_withWafer] at heads
    exact ⟨heads, ((State.KeepsStore.refl _).setTouchdowns p _).law (counted n).store, (counted n).books.withPort p _⟩
  unfold State.voidWafer
  dsimp only
  split
  · exact ((removed _).runPass p).books
  · exact (removed _).books

theorem State.Passes.endTouchdowns (h : s.Passes X) (i : SlotId) (w : Wafer) :
    (s.endTouchdowns i w (s.handleOf i)).Books := by
  unfold State.endTouchdowns
  split
  · exact (h.voidWafer _ i).queueOutIfUp _ _
  · exact h.books

end

end Sys2Proof.Machine
end

section
/-! PROOFS. The books through every line event, head frame and host command (for O16). -/
namespace Sys2Proof.Machine

section
variable {s t : State} {p : PortId} {i : SlotId} {w : Wafer}

/-- What a step leans on as it keeps the books. -/
structure State.Kept (s : State) : Prop where
  lines : s.Lines
  store : s.StoreLaw
  books : s.Books

theorem State.Kept.passes (h : s.Kept) : s.Passes fun _ => False := ⟨h.lines.heads, h.store, h.books⟩

theorem State.Kept.popHost (h : s.Kept) {f : Frame} {rest : List Frame} (hq : s.host.intake = f :: rest) :
    (s.popHost rest).Kept :=
  ⟨h.lines.popHost hq, (State.KeepsStore.popHost s rest).law h.store, h.books.same⟩

/-- A command is taken, whatever it does. -/
theorem State.Kept.takeHost (h : s.Kept) {code : Byte} {run : State → List Byte → Answer}
    (hr : ∀ (u : State) bs, u.Kept → (run u bs).1.Books) : (s.takeHost code run).Books := by
  unfold State.takeHost
  split
  · next f rest _ hq =>
    split
    · exact (hr _ _ (h.popHost hq)).same
    · exact h.books
  · exact h.books

/-- A frame of another kind than ANNOUNCE is taken, whatever its owner makes of it. -/
theorem State.Kept.takeHead (h : s.Kept) (p : PortId) (k : Byte) {owner : State → List Byte → State}
    (ho : ∀ (u : State) bs, u.Kept → (owner u bs).Books) : (s.takeHead p k owner).Books := by
  unfold State.takeHead
  split
  · next f rest hr =>
    split
    · have taken : (s.withPort p fun q => q.takeFrame k rest).Kept :=
        ⟨h.lines.quiet ((State.Quiet.refl s).takeFrame hr k), ((State.KeepsStore.refl s).takeFrame p k rest).law h.store,
          h.books.same⟩
      dsimp only
      split
      · exact ho _ _ taken
      · exact taken.books.same
    · exact h.books
  · exact h.books

/-! ### Line events (R141 to R145) -/

theorem State.Books.rxEffect (h : s.Books) (p : PortId) (e : RxEvent) : (s.rxEffect p e).Books := by
  cases e with
  | quiet => exact h
  | discarded => exact h.withPort p _
  | good f =>
    show (s.offer p f).Books
    unfold State.offer
    dsimp only
    split
    · exact h.withPort p _
    · split
      · exact h.withPort p _
      · exact (h.withPort p _).notify _

theorem State.Books.headChar (h : s.Books) (p : PortId) (c : RxChar) : (State.headChar p s c).Books := by
  unfold State.headChar
  dsimp only
  split
  · exact h
  · exact (h.withPort p _).rxEffect p _

theorem State.Books.shortBreak (h : s.Books) (p : PortId) : (s.shortBreak p).Books := by
  unfold State.shortBreak
  dsimp only
  split
  · exact h
  · exact h
  · split
    · exact h.same
    · exact h.same

theorem State.Books.longBreak (h : s.Books) (p : PortId) : (s.longBreak p).Books := by
  have broken : ((s.shortBreak p).withPort p fun q => { q with line := .longTaken }).Books := (h.shortBreak p).withPort p _
  unfold State.longBreak
  split
  · exact h
  · dsimp only
    split
    · exact broken.lose p _
    · exact broken

/-! ### Head frames (R24, R30, R45 to R55, R148 to R154) -/

theorem State.Books.nonHeadFrame (h : s.Books) (p : PortId) : (s.nonHeadFrame p).Books := by
  unfold State.nonHeadFrame
  split
  · split
    · exact h
    · exact h.same
  · exact h

theorem State.Books.beat (h : s.Books) (p : PortId) (bs : List Byte) : (State.beat p s bs).Books := by
  unfold State.beat
  split
  · exact h
  · exact h.same

theorem State.Books.touch (h : s.Books) (p : PortId) (bs : List Byte) : (State.touch p s bs).Books := by
  unfold State.touch
  dsimp only
  split
  · exact h.same
  · split
    · exact h.same
    · exact h.same

theorem State.Books.site (h : s.Books) (p : PortId) (bs : List Byte) : (State.site p s bs).Books := by
  unfold State.site
  dsimp only
  split
  · exact h.same
  · split
    · exact h.same
    · exact h.same

theorem State.Kept.lift (h : s.Kept) (p : PortId) (bs : List Byte) : (State.lift p s bs).Books := by
  have sealed : (s.setTouchdowns p (sealTag (s.port p).touchdowns (charAt bs 0))).Passes fun _ => False :=
    ⟨h.lines.heads.seal p _, ((State.KeepsStore.refl s).setTouchdowns p _).law h.store, h.books.same⟩
  unfold State.lift
  dsimp only
  split
  · exact h.books.same
  · split
    · exact h.books.same
    · split
      · exact h.books.same
      · split
        · exact (sealed.runPass p).books
        · exact sealed.books

theorem State.Books.unload (h : s.Books) (p : PortId) (bs : List Byte) : (State.unload p s bs).Books := by
  unfold State.unload
  dsimp only
  split
  · exact h.same
  · split
    · next i w hi hact =>
      obtain ⟨j, hj, hw, hs, -⟩ := State.activeOn_eq_some hact
      obtain rfl : i = j := Option.some.inj (hi.symm.trans hj)
      split
      · split
        · exact h.same
        · refine State.Books.settleLamps (h.withWafer i fun v hv => Wafer.follows_state ?_ .draining v.boundPort v.serial)
          obtain rfl : w = v := Option.some.inj (hw.symm.trans hv)
          rw [hs]
          rfl
      · exact h.enterClosed i _
    · exact h.same

theorem State.Books.queueHoldAfterWelcome (h : s.Books) (p : PortId) : (s.queueHoldAfterWelcome p).Books := by
  unfold State.queueHoldAfterWelcome
  split
  · split
    · exact h.same
    · exact h
  · exact h

theorem State.Books.resumeAt (h : s.Books) (hw : s.waferAt i = some w) (hs : w.state = .suspended) (p : PortId) :
    (s.resumeAt p i).Books := by
  refine State.Books.judgeHeld (h.withWafer i fun v hv => Wafer.follows_state ?_ .active v.boundPort v.serial) _ _ _
  obtain rfl : w = v := Option.some.inj (hw.symm.trans hv)
  rw [hs]
  rfl

theorem State.Books.announceUp (h : s.Books) (p : PortId) (serial : Word32) (n : Nat) (resume : Option Byte) :
    (s.announceUp p serial n resume).Books := by
  have started : (s.withPort p fun q => q.startSession serial n).Books := h.same
  unfold State.announceUp
  dsimp only
  generalize (s.withPort p fun q => q.startSession serial n) = u at *
  refine (State.Books.queueHoldAfterWelcome (State.Books.withPort (State.Books.notify ?_ _) _ _) p).settleLamps
  split
  · next i hi =>
    obtain ⟨x, -, hx⟩ := Option.bind_eq_some_iff.mp hi
    obtain ⟨w, hw, he⟩ := Option.map_eq_some_iff.mp ((u.resumable_eq_some_iff p serial x i).mp hx).2
    exact started.resumeAt hw (Prod.mk.inj he).1 p
  · exact started

theorem State.Books.announce (h : s.Books) (p : PortId) (bs : List Byte) : (State.announce p s bs).Books := by
  unfold State.announce
  split
  · exact h.same
  · dsimp only
    split
    · exact (h.lose p _).announceUp p _ _ _
    · exact h.announceUp p _ _ _

theorem State.Books.takeAnnounce (h : s.Books) (p : PortId) : (s.takeAnnounce p).Books := by
  unfold State.takeAnnounce
  split
  · split
    · exact State.Books.announce h.same p _
    · exact h
  · exact h

/-! ### HEAD_SET and HEAD_DROP (R161 to R164) -/

theorem State.Books.headSet (h : s.Books) (p : PortId) (l : LineSettings) : (s.headSet p l).Books := by
  have stored : ((s.withPort p fun q => q.storeTimer l).withPort p fun q => q.storeDivisor l.divisor).Books := h.same
  unfold State.headSet
  dsimp only
  split
  · split
    · exact stored.lose p _
    · split <;> exact stored.same
  · split
    · exact stored
    · exact stored.same
  · split
    · exact stored.same
    · split
      · exact stored
      · exact stored.same
  · split
    · exact stored.same
    · split
      · exact stored
      · exact stored.same

theorem State.Books.runHeadSet (h : s.Books) (bs : List Byte) : (runHeadSet s bs).1.Books := by
  unfold Machine.runHeadSet
  split
  · exact h
  · split
    · exact h
    · split
      · exact h
      · exact (h.headSet _ _).settleLamps

theorem State.Books.runHeadStatus (h : s.Books) (bs : List Byte) : (runHeadStatus s bs).1.Books := by
  unfold Machine.runHeadStatus
  split
  · exact h
  · split
    · exact h
    · exact h.same

theorem State.Books.runHeadDrop (h : s.Books) (bs : List Byte) : (runHeadDrop s bs).1.Books := by
  unfold Machine.runHeadDrop
  split
  · exact h
  · split
    · exact h
    · split
      · exact h
      · exact h.lose _ _

/-! ### The wafer commands (R20 to R36) -/

/-- A newly opened wafer's record keeps its laws (R22). -/
theorem Wafer.fits_new (a : OpenArgs) (l : LotId) (base : Nat) (serial : Word32) {prof : Profile}
    (ok : prof.accepted = true) : (newWafer a l base serial prof).Fits := by
  have cleared : ∀ src, tabGet (newWafer a l base serial prof).alarms src = Alarm.cleared := fun src => tabGet_replicate _ src
  have zero : 0 ≤ countCap := Nat.zero_le _
  refine { each := fun src => ?_, runRecord := ?_, surplus := fun j _ => cleared _, window := Window.law_empty, room := ?_,
           resultsApplied := zero, retestResults := zero, excessResults := zero, missingSites := zero,
           skippedSites := zero, touchdownsApplied := zero, touchdownsVoided := zero, windowsClosed := zero,
           alarmsRaised := zero, run := zero }
  · rw [cleared]; exact Alarm.law_cleared
  · rw [cleared]; exact AlarmState.noConfusion
  · exact (Nat.zero_lt_succ 15).trans_le (Profile.accepted_ranges ok).1

theorem State.Books.openWafer (h : s.Books) (block : s.BlockLaw) {a : OpenArgs} {i : SlotId} (hg : gridOk a.rows a.columns = true)
    {prof : Profile} (ok : prof.accepted = true) (l : LotId) {base : Nat}
    (hb : placeBlock s.blocks (blockSizeFor (a.rows * a.columns)) = some base) : (s.openWafer a i prof l base).Books := by
  have fits := Wafer.fits_new a l base (s.port a.port).serial ok
  have joined := h.joinLot l a.lotText
  obtain ⟨-, -, free⟩ := placeBlock_some hb
  obtain ⟨-, -, -, -, dies⟩ := (gridOk_iff _ _).mp hg
  unfold State.openWafer
  dsimp only
  refine State.Books.settleLamps (State.Books.judgeHeld (State.Books.withPort ?_ _ _) _ _ _)
  refine ⟨fun j v hv => ?_, fun j v hv => ?_, joined.lots⟩ <;> rw [State.waferAt_fillSlot] at hv <;> split at hv
  · obtain rfl := Option.some.inj hv
    refine State.tallied_new rfl rfl rfl rfl fun k hk => ?_
    refine (mapRead_mapClear s.map base _ _).trans (if_pos ⟨Nat.le_add_right _ _, ?_⟩)
    exact Nat.add_lt_add_left (hk.trans_le (le_blockSizeFor dies)) base
  · have old : s.waferAt j = some v := hv
    refine (h.tallied j v old).carry rfl (fun hb => ⟨hb, rfl⟩) fun k hk => ?_
    refine (mapRead_mapClear s.map base _ _).trans (if_neg fun inside => ?_)
    have apart := (spanFree_iff _ _ _).mp free _ ((s.mem_blocks _).mpr ⟨j, v, old, rfl⟩)
    have within := State.BlockLaw.grid_within block old
    have lower : base ≤ v.base + k := inside.1
    have upper : v.base + k < base + blockSizeFor (a.rows * a.columns) := inside.2
    omega
  · exact Option.some.inj hv ▸ fits
  · exact h.fits j v hv

theorem State.Kept.runWaferOpen (h : s.Kept) (bs : List Byte) : (runWaferOpen s bs).1.Books := by
  unfold Machine.runWaferOpen
  split
  · exact h.books
  · split
    · exact h.books
    · next a ha =>
      unfold State.judgeOpen
      split_ifs
      · exact h.books
      · exact h.books
      · exact h.books
      · split
        · exact h.books
        · split
          · exact h.books
          · next prof hp =>
            split
            · exact h.books
            · split
              · exact h.books
              · next base hb =>
                exact h.books.openWafer h.store.block (readOpen_gridOk ha) (State.profileOf_accepted h.store hp) _ hb

theorem State.Kept.runWaferClose (h : s.Kept) (bs : List Byte) : (runWaferClose s bs).1.Books := by
  unfold Machine.runWaferClose
  split
  · exact h.books
  · refine State.withHandle_keeps h.books fun i w hi _ => ?_
    split
    · rw [← hi]
      exact (h.passes.endTouchdowns i w).enterClosed i _
    · exact h.books

theorem State.Kept.runWaferAbandon (h : s.Kept) (bs : List Byte) : (runWaferAbandon s bs).1.Books := by
  unfold Machine.runWaferAbandon
  split
  · exact h.books
  · refine State.withHandle_keeps h.books fun i w hi _ => ?_
    split
    · rw [← hi]
      exact (h.passes.endTouchdowns i w).enterAbandoned i
    · exact h.books

theorem State.Books.resumeOn (h : s.Books) (hw : s.waferAt i = some w) (hs : w.state = .suspended) (x : Byte) (p : PortId) :
    (s.resumeOn i w x p).Books := by
  have resumed := h.withWafer i (f := fun w => { w with state := .active, boundPort := some p, serial := (s.port p).serial })
    fun v hv => Wafer.follows_state (by rw [Option.some.inj (hv.symm.trans hw), hs]; rfl) _ _ _
  unfold State.resumeOn
  dsimp only
  exact ((((resumed.dropAssignAt _ _).withPort p _).judgeBound _ _ _).judgeHeld _ _ _).settleLamps

theorem State.Books.runWaferResume (h : s.Books) (bs : List Byte) : (runWaferResume s bs).1.Books := by
  unfold Machine.runWaferResume
  split
  · exact h
  · split
    · exact h
    · refine State.withHandle_keeps h fun i w _ hw => ?_
      split_ifs with hs
      · exact h
      · exact h
      · exact h
      · exact h.resumeOn hw (not_not.mp hs) _ _

theorem State.Books.runWaferDiscard (h : s.Books) (bs : List Byte) : (runWaferDiscard s bs).1.Books := by
  unfold Machine.runWaferDiscard
  split
  · exact h
  · refine State.withHandle_keeps h fun i w _ hw => ?_
    split
    · exact h
    · refine h.back (t := s.freeSlotAt i) rfl rfl (fun j v hv => ⟨v, ?_, .refl v⟩) h.lots
      rw [State.waferAt, State.freeSlotAt, tabGet_tabModify] at hv
      split at hv
      · cases hv
      · exact hv

/-! ### The other host commands -/

theorem State.Books.runLimitsStage (h : s.Books) (bs : List Byte) : (runLimitsStage s bs).1.Books := by
  have staged : ∀ i prof source, (s.stage i prof source).Books := fun i prof source =>
    h.withWafer i fun _ _ => ⟨rfl, id, fun f => { f with }⟩
  have checked : ∀ {x : Byte} {k : SlotId → Answer}, (∀ i, (k i).1.Books) → (s.stageCheck x k).1.Books := fun {x k} hk => by
    refine State.withHandle_keeps h fun i w _ _ => ?_
    split
    · exact hk i
    · exact h
  unfold Machine.runLimitsStage
  split
  · split
    · exact h
    · refine checked fun i => ?_
      split
      · exact h
      · exact staged _ _ _
  · split_ifs
    · exact h
    · exact h
    · exact checked fun i => staged _ _ _

theorem Wafer.follows_acknowledge (w : Wafer) : w.acknowledge.Follows w :=
  ⟨rfl, id, fun h => { h.toAlarmsLaw.acknowledge, h with }⟩

theorem State.Books.runHoldRelease (h : s.Books) (bs : List Byte) : (runHoldRelease s bs).1.Books := by
  unfold Machine.runHoldRelease
  split
  · exact h
  · exact State.withHandle_keeps h fun i w _ _ =>
      ((h.withWafer i fun w _ => w.follows_acknowledge).judgeBound _ _ _).settleLamps

/-- The bin table may change while no wafer is bound, since the counts of an unbound record are of no class (R3, R84). -/
theorem State.Books.runBinsSet (h : s.Books) (bs : List Byte) : (runBinsSet s bs).1.Books := by
  unfold Machine.runBinsSet
  split_ifs with _ _ bound
  · exact h
  · exact h
  · exact h
  · generalize readBins bs = v
    refine ⟨fun i w hw => (h.tallied i w hw).carry rfl (fun hb => ?_) fun _ _ => rfl, h.fits, h.lots⟩
    refine (bound ((tabList_any _ _).mpr ⟨i, ?_⟩)).elim
    rw [show (tabGet s.slots i).wafer = some w from hw, Option.any_some]
    exact hb

theorem State.Books.endLot (h : s.Books) (l : LotId) : (s.endLot l).Books := by
  refine h.back (t := s.endLot l) rfl rfl (fun i v hv => ?_) fun k e he => ?_
  · rw [State.waferAt, State.slot_endLot] at hv
    obtain ⟨w, hw, rfl⟩ := Option.map_eq_some_iff.mp hv
    refine ⟨w, hw, ?_⟩
    split
    · exact ⟨rfl, id, fun f => { f with }⟩
    · exact .refl w
  · rw [State.endLot, tabGet_tabSet] at he
    split at he
    · cases he
    · exact h.lots k e he

theorem State.Books.runLotEnd (h : s.Books) (bs : List Byte) : (runLotEnd s bs).1.Books := by
  unfold Machine.runLotEnd
  refine State.withLot_keeps h fun l e _ => ?_
  split
  · exact h
  · exact h.endLot l

theorem State.Books.runNoticeFetch (h : s.Books) (bs : List Byte) : (runNoticeFetch s bs).1.Books := by
  unfold Machine.runNoticeFetch
  split
  · exact h
  · exact h.same

theorem State.Books.setPage (h : s.Books) (pg : StoredPage) (v : PageBytes) (o : Option PageOp) :
    State.Books { s.setPage pg v with pageOp := o } := by
  cases pg <;> exact h.same

theorem State.Books.pageDone (h : s.Books) (stored : Bool) : (s.pageDone stored).Books := by
  unfold State.pageDone
  split
  · exact h
  · split
    · exact (h.setPage _ _ none).notify _
    · exact h

theorem State.Books.runPageErase (h : s.Books) (bs : List Byte) : (runPageErase s bs).1.Books := by
  unfold Machine.runPageErase
  split
  · exact h
  · split
    · exact h
    · split
      · exact h
      · split
        · exact h
        · exact h.setPage _ _ _

theorem State.Books.runPageWrite (h : s.Books) (bs : List Byte) : (runPageWrite s bs).1.Books := by
  unfold Machine.runPageWrite
  split
  · exact h
  · split
    · exact h
    · split
      · exact h
      · split_ifs
        · exact h
        · exact h
        · exact h
        · exact h.setPage _ _ _

/-! ### Resets (R174, R182) -/

/-- A state without wafers and lot entries. -/
theorem State.books_empty (slots : ∀ i, s.waferAt i = none) (lots : s.lots = Vector.replicate 4 none) : s.Books := by
  have empty : ∀ {i w}, s.waferAt i ≠ some w := fun {i w} hw => Option.some_ne_none w (hw.symm.trans (slots i))
  refine ⟨fun i w hw => (empty hw).elim, fun i w hw => (empty hw).elim, fun l e he => ?_⟩
  rw [lots, tabGet_replicate] at he
  cases he

theorem State.books_softReset (s : State) : s.softReset.Books :=
  State.books_empty (fun i => by rw [State.waferAt, State.slot_softReset]) rfl

theorem State.books_restart (s : State) (st : Straps) : (s.restart st).Books :=
  State.books_empty (fun i => by rw [State.waferAt, State.slot_restart]) rfl

end

end Sys2Proof.Machine
end

section
/-! PROOFS. Every step keeps the books, and with them the laws of the records (O16). -/
namespace Sys2Proof.Machine

section
variable {s t : State}

/-- Every command keeps the books. -/
theorem exec_books {c : Instr} (h : s.Kept) (he : exec c s = .next t) : t.Books := by
  have books := h.books
  -- the next state of an arm that cannot stop, and of one whose cells exist
  have next : ∀ {u : State}, u.Books → Host.Outcome.next u = (Host.Outcome.next t : Host.Outcome State Fault Refusal) →
      t.Books := fun hu e => Host.Outcome.next.inj e ▸ hu
  have guarded : ∀ {u : State}, u.Books → s.guardCells u = .next t → t.Books := fun hu e =>
    (State.guardCells_next e).2 ▸ hu
  cases c with
  | headFrameReceived p cs => exact next (.foldl (fun u c hu => hu.headChar p c) cs books) he
  | shortBreak p => exact next (books.shortBreak p) he
  | longBreak p => exact next (books.longBreak p) he
  | hostFrameReceived cs => exact next books.same he
  | hostShortBreak => exact next books.same he
  | announce p => exact next (books.takeAnnounce p) he
  | touch p => exact next (h.takeHead p _ fun u bs hu => hu.books.touch p bs) he
  | site p => exact next (h.takeHead p _ fun u bs hu => hu.books.site p bs) he
  | lift p => exact guarded (h.takeHead p _ fun u bs hu => hu.lift p bs) he
  | unload p => exact next (h.takeHead p _ fun u bs hu => hu.books.unload p bs) he
  | beat p => exact next (h.takeHead p _ fun u bs hu => hu.books.beat p bs) he
  | nonHeadFrame p => exact next (books.nonHeadFrame p) he
  | silenceExpiry p =>
    refine next ?_ he
    unfold State.silenceExpiry
    split
    · exact books.lose p _
    · exact books
  | headFrameSend p r => exact next (books.withPort p _) he
  | hostReplySend e => exact next books.same he
  | pageDone stored => exact next (books.pageDone stored) he
  | lampPhaseExpiry l => exact next books.same he
  | powerUp st => exact next (s.books_restart st) he
  | pinReset st => exact next (s.books_restart st) he
  | queryPart => exact next (h.takeHost fun u bs hu => by unfold runQueryPart; split <;> exact hu.books) he
  | status => exact next (h.takeHost fun u bs hu => by unfold runStatus; split; exact hu.books; exact hu.books.same) he
  | headSet => exact next (h.takeHost fun u bs hu => hu.books.runHeadSet bs) he
  | headStatus => exact next (h.takeHost fun u bs hu => hu.books.runHeadStatus bs) he
  | headDrop => exact next (h.takeHost fun u bs hu => hu.books.runHeadDrop bs) he
  | waferOpen => exact next (h.takeHost fun u bs hu => hu.runWaferOpen bs) he
  | waferClose => exact guarded (h.takeHost fun u bs hu => hu.runWaferClose bs) he
  | waferAbandon => exact guarded (h.takeHost fun u bs hu => hu.runWaferAbandon bs) he
  | waferResume => exact next (h.takeHost fun u bs hu => hu.books.runWaferResume bs) he
  | waferDiscard => exact next (h.takeHost fun u bs hu => hu.books.runWaferDiscard bs) he
  | waferRead => exact next (h.takeHost fun u bs hu => by rw [runWaferRead_fst]; exact hu.books) he
  | mapRead => exact guarded (h.takeHost fun u bs hu => by rw [runMapRead_fst]; exact hu.books) he
  | alarmsRead => exact next (h.takeHost fun u bs hu => by rw [runAlarmsRead_fst]; exact hu.books) he
  | limitsStage => exact next (h.takeHost fun u bs hu => hu.books.runLimitsStage bs) he
  | limitsRead => exact next (h.takeHost fun u bs hu => by rw [runLimitsRead_fst]; exact hu.books) he
  | holdRelease => exact next (h.takeHost fun u bs hu => hu.books.runHoldRelease bs) he
  | waferBins => exact next (h.takeHost fun u bs hu => by rw [runWaferBins_fst]; exact hu.books) he
  | binsSet => exact next (h.takeHost fun u bs hu => hu.books.runBinsSet bs) he
  | binsRead => exact next (h.takeHost fun u bs hu => by unfold runBinsRead; split <;> exact hu.books) he
  | lampSet =>
    refine next (h.takeHost fun u bs hu => ?_) he
    unfold runLampSet
    split
    · exact hu.books
    · split
      · exact hu.books
      · exact hu.books.same
  | alertSet =>
    refine next (h.takeHost fun u bs hu => ?_) he
    unfold runAlertSet
    split_ifs
    · exact hu.books
    · exact hu.books
    · exact hu.books.same
  | lotRead => exact next (h.takeHost fun u bs hu => State.withLot_keeps hu.books fun l e _ => hu.books) he
  | lotEnd => exact next (h.takeHost fun u bs hu => hu.books.runLotEnd bs) he
  | noticeFetch => exact next (h.takeHost fun u bs hu => hu.books.runNoticeFetch bs) he
  | pageRead => exact next (h.takeHost fun u bs hu => by rw [runPageRead_fst]; exact hu.books) he
  | pageWrite => exact next (h.takeHost fun u bs hu => hu.books.runPageWrite bs) he
  | pageErase => exact next (h.takeHost fun u bs hu => hu.books.runPageErase bs) he
  | partReset =>
    exact next (h.takeHost fun u bs hu => by unfold runPartReset; split; exact hu.books; exact u.books_softReset) he
  | unknownKind =>
    refine next ?_ he
    unfold State.unknownKind
    split
    · split
      · exact books
      · exact books.same
    · exact books
  | framingError p c => exact next (books.headChar p c) he
  | breakEnd p => exact next (books.withPort p _) he
  | hostFramingError c => exact next books.same he
  | hostBreakEnd => exact next books.same he
  | frameFinished p r => exact next (books.withPort p _) he

/-- Every step keeps the books. -/
theorem step_books (h : s.Kept) (he : step s = .next t) : t.Books := by
  unfold step at he
  split at he
  · exact Host.Outcome.next.inj he ▸ h.books.same
  · next c rest _ =>
    have kept : State.Kept { s with pending := rest } :=
      ⟨h.lines.quiet (.aside (.refl s)), h.store.same rfl, h.books.same⟩
    exact exec_books kept he

theorem State.Sound.kept (h : s.Sound) : s.Kept :=
  ⟨h.lines, h.storeLaw, s.books_iff.mpr ⟨h.count, h.alarm, h.window, h.counter⟩⟩

end

/-- Settles O16: the laws of the records hold together with the counts of their dies, which bound what a closing wafer
adds to its lot entry; every step keeps them, with the laws of the lines and of the store that name an entry's wafer and
cells. -/
theorem stepsKeepTheRecordLaws : Obligations.StepsKeepTheRecordLaws := fun _ t sound he =>
  (t.books_iff.mp (step_books sound.kept he)).2

end Sys2Proof.Machine
end

section
/-! PROOFS. The touchdown pipeline: TOUCH, SITE and LIFT as their owners judge them, and the application pass (O26, O27,
O28). -/
namespace Sys2Proof.Machine

/-! ### The payload of a TOUCH (R45, Table 9-6) -/

/-- The five characters of a site in a TOUCH payload. -/
def RawSite.chars (d : RawSite) : List Byte := BitVec.ofNat 8 d.number :: write2 d.column ++ write2 d.row

theorem RawSite.flatMap_chars_length (ds : List RawSite) : (ds.flatMap RawSite.chars).length = 5 * ds.length := by
  induction ds with
  | nil => rfl
  | cons d ds ih =>
    have one : d.chars.length = 5 := rfl
    rw [List.flatMap_cons, List.length_append, ih, one, List.length_cons]
    omega

theorem touchPayload_eq (h tag : Byte) (ds : List RawSite) :
    touchPayload h tag ds = [h, tag, BitVec.ofNat 8 ds.length] ++ ds.flatMap RawSite.chars := rfl

/-- One site reads back from its characters, whatever stands around them. -/
theorem RawSite.read_chars {d : RawSite} (hn : d.number < 256) (hc : d.column < 65536) (hr : d.row < 65536)
    (as bs : List Byte) :
    (⟨read1 (as ++ (d.chars ++ bs)) as.length, read2 (as ++ (d.chars ++ bs)) (as.length + 1),
      read2 (as ++ (d.chars ++ bs)) (as.length + 3)⟩ : RawSite) = d := by
  have behind := charAt_append_right as (d.chars ++ bs)
  have number : read1 (as ++ (d.chars ++ bs)) as.length = d.number := by
    rw [read1, show charAt (as ++ (d.chars ++ bs)) as.length = _ from behind 0]
    exact oneChar hn
  have column : read2 (as ++ (d.chars ++ bs)) (as.length + 1) = d.column := by
    rw [read2, read1, read1, behind 1, behind 2]
    exact twoChars hc
  have row : read2 (as ++ (d.chars ++ bs)) (as.length + 3) = d.row := by
    rw [read2, read1, read1, behind 3, behind 4]
    exact twoChars hr
  rw [number, column, row]

/-- A list of sites reads back from its characters behind any others. -/
theorem RawSite.read_list (ds : List RawSite) (fit : ∀ d ∈ ds, d.number < 256 ∧ d.column < 65536 ∧ d.row < 65536)
    (as : List Byte) :
    ((List.range ds.length).map fun j => (⟨read1 (as ++ ds.flatMap RawSite.chars) (as.length + 5 * j),
      read2 (as ++ ds.flatMap RawSite.chars) (as.length + 1 + 5 * j),
      read2 (as ++ ds.flatMap RawSite.chars) (as.length + 3 + 5 * j)⟩ : RawSite)) = ds := by
  induction ds generalizing as with
  | nil => rfl
  | cons d ds ih =>
    obtain ⟨hn, hc, hr⟩ := fit d List.mem_cons_self
    have tail := ih (fun e he => fit e (List.mem_cons_of_mem _ he)) (as ++ d.chars)
    have five : (as ++ d.chars).length = as.length + 5 := List.length_append
    rw [List.append_assoc, five] at tail
    rw [List.length_cons, List.range_succ_eq_map, List.map_cons, List.map_map, List.flatMap_cons]
    refine congrArg₂ List.cons (RawSite.read_chars hn hc hr as _) ((List.map_congr_left fun j _ => ?_).trans tail)
    have shift : ∀ k, k + 5 * (j + 1) = k + 5 + 5 * j := fun k => by omega
    simp only [Function.comp_apply, Nat.succ_eq_add_one, shift, Nat.add_right_comm _ 5]

section
variable {ds : List RawSite} (fits : touchFits ds) (h tag : Byte)
include fits

theorem read1_touchPayload : read1 (touchPayload h tag ds) 2 = ds.length :=
  oneChar (fits.1.trans_lt (by decide))

theorem touchLengthOk_touchPayload : touchLengthOk (touchPayload h tag ds) = true := by
  have length : (touchPayload h tag ds).length = 3 + 5 * ds.length := by
    rw [touchPayload_eq, List.length_append, RawSite.flatMap_chars_length]
    rfl
  rw [← Bool.not_eq_false, touchLengthOk_false_iff, read1_touchPayload fits]
  omega

/-- The sites of a TOUCH read back from its payload (Table 9-6). -/
theorem readSites_touchPayload : readSites (touchPayload h tag ds) ds.length = ds :=
  RawSite.read_list ds fits.2 [h, tag, BitVec.ofNat 8 ds.length]

end

/-! ### The checks of Table 3-2 (R46 to R49) -/

theorem hasRepeat_iff {α : Type} [DecidableEq α] (l : List α) : hasRepeat l = true ↔ ¬l.Nodup := by
  induction l with
  | nil => exact ⟨fun hr => Bool.noConfusion hr, fun hn => absurd List.nodup_nil hn⟩
  | cons x l ih =>
    rw [hasRepeat, Bool.or_eq_true, ih, List.contains_iff_mem, List.nodup_cons, not_and_or, not_not]

theorem badSites_iff (n : Nat) (w : Wafer) (k : Nat) (ds : List RawSite) : badSites n w k ds = true ↔
    k = 0 ∨ n < k ∨ (∃ d ∈ ds, 15 < d.number) ∨ ¬(ds.map (·.number)).Nodup ∨
      ∃ d ∈ ds, w.columns ≤ d.column ∨ w.rows ≤ d.row := by
  simp only [badSites, Bool.or_eq_true, hasRepeat_iff, List.any_eq_true, beq_iff_eq, decide_eq_true_eq, or_assoc]

theorem dupDies_iff (ds : List RawSite) : dupDies ds = true ↔ ¬(ds.map fun d => (d.column, d.row)).Nodup :=
  hasRepeat_iff _

theorem any_tag_iff (es : List Entry) (tag : Byte) : es.any (fun e => e.tag == tag) = true ↔ ∃ e ∈ es, e.tag = tag := by
  simp only [List.any_eq_true, beq_iff_eq]

theorem State.touchReason_of_none {s : State} {h : Byte} (unknown : (s.resolve h).bind s.waferAt = none) (p : PortId)
    (tag : Byte) (k : Nat) (ds : List RawSite) : s.touchReason p h tag k ds = .badWafer := by
  rw [State.touchReason, State.activeOn, unknown]

/-- The first failing check of a TOUCH whose handle names a wafer (Table 3-2). -/
theorem State.touchReason_of_some {s : State} {h : Byte} {w : Wafer} (known : (s.resolve h).bind s.waferAt = some w)
    (p : PortId) (tag : Byte) (k : Nat) (ds : List RawSite) : s.touchReason p h tag k ds =
      if w.state ≠ .active ∨ w.boundPort ≠ some p then .badWafer
      else if (s.port p).held = true then .held
      else if 4 ≤ (s.port p).touchdowns.length then .listFull
      else if ∃ e ∈ (s.port p).touchdowns, e.tag = tag then .dupTag
      else if k = 0 ∨ (s.port p).maxSites < k ∨ (∃ d ∈ ds, 15 < d.number) ∨
        ¬(ds.map (·.number)).Nodup ∨ (∃ d ∈ ds, w.columns ≤ d.column ∨ w.rows ≤ d.row) then .badSite
      else if ¬(ds.map fun d => (d.column, d.row)).Nodup then .dupDie
      else .accepted := by
  rw [State.touchReason, State.activeOn, known]
  by_cases bound : w.state = .active ∧ w.boundPort = some p
  · rw [if_neg (c := _ ∨ _) (not_or.mpr ⟨not_not_intro bound.1, not_not_intro bound.2⟩)]
    simp only [if_pos bound, any_tag_iff, badSites_iff, dupDies_iff]
  · rw [if_pos (not_and_or.mp bound)]
    simp only [if_neg bound]

/-! ### The port a frame was taken from -/

theorem Port.takeFrame_held (q : Port) (k : Byte) (rest : List Frame) : (q.takeFrame k rest).held = q.held := by
  unfold Port.takeFrame
  dsimp only
  split <;> rfl

theorem Port.takeFrame_maxSites (q : Port) (k : Byte) (rest : List Frame) :
    (q.takeFrame k rest).maxSites = q.maxSites := by
  unfold Port.takeFrame
  dsimp only
  split <;> rfl

theorem State.touchdowns_taking (s : State) (p : PortId) (k : Byte) (rest : List Frame) :
    ((s.withPort p fun q => q.takeFrame k rest).port p).touchdowns = (s.port p).touchdowns := by
  rw [State.port_withPort_self, Port.takeFrame_touchdowns]

/-- Taking the frame changes nothing that Table 3-2 looks at. -/
theorem State.touchReason_taking (s : State) (p : PortId) (k : Byte) (rest : List Frame) (h tag : Byte) (n : Nat)
    (ds : List RawSite) :
    (s.withPort p fun q => q.takeFrame k rest).touchReason p h tag n ds = s.touchReason p h tag n ds := by
  unfold State.touchReason
  rw [State.port_withPort_self, Port.takeFrame_held, Port.takeFrame_maxSites, Port.takeFrame_touchdowns]
  rfl

/-! ### TOUCH (R46 to R50) -/

/-- A TOUCH of well-formed length is answered with its reason, and an accepted one opens its entry (R46, R50). -/
theorem State.touch_judged {s : State} {p : PortId} {h tag : Byte} {ds : List RawSite} {r : TouchReason}
    (fits : touchFits ds) (reason : s.touchReason p h tag ds.length ds = r) :
    State.touch p s (touchPayload h tag ds) = s.withPort p fun q => { q with
      outbound := q.outbound ++ [.touchAck h tag r]
      touchdowns := if r = .accepted then q.touchdowns ++ [newEntry h tag ds] else q.touchdowns } := by
  unfold State.touch
  rw [read1_touchPayload fits, readSites_touchPayload fits,
    if_neg (Bool.not_eq_false _ ▸ touchLengthOk_touchPayload fits h tag)]
  dsimp only
  rw [show s.touchReason p (charAt (touchPayload h tag ds) 0) (charAt (touchPayload h tag ds) 1) _ _ = r from reason]
  by_cases accepted : r = .accepted
  · simp only [if_pos accepted]
    rw [State.setTouchdowns, State.queueOut, State.withPort_withPort]
    exact State.withPort_congr s p rfl
  · simp only [if_neg accepted]
    rfl

/-- The TOUCH at the front, taken and judged on the state it found. -/
theorem State.takeTouch_judged {s : State} {p : PortId} {h tag : Byte} {ds : List RawSite} {rest : List Frame}
    {r : TouchReason} (fits : touchFits ds) (finds : s.HeadFinds p 0x12 (touchPayload h tag ds) rest)
    (up : (s.port p).session = .up) (reason : s.touchReason p h tag ds.length ds = r) :
    s.takeHead p kindTouch (State.touch p) = s.withPort p fun q => { q.takeFrame 0x12 rest with
      outbound := q.outbound ++ [.touchAck h tag r]
      touchdowns := if r = .accepted then q.touchdowns ++ [newEntry h tag ds] else q.touchdowns } := by
  rw [show s.takeHead p kindTouch (State.touch p) = _ from State.takeHead_up finds up _,
    State.touch_judged fits ((s.touchReason_taking p 0x12 rest h tag ds.length ds).trans reason), State.withPort_withPort]
  refine State.withPort_congr s p ?_
  rw [Function.comp_apply, Port.takeFrame_outbound, Port.takeFrame_touchdowns]

/-- Settles O26: the sites read back from the payload, and the reason by whether the handle names a wafer. -/
theorem touchesAreJudgedInOrder : Obligations.TouchesAreJudgedInOrder := by
  refine fun s p h tag ds rest fits finds up => congrArg Host.Outcome.next (State.takeTouch_judged fits finds up ?_)
  cases known : (s.resolve h).bind s.waferAt with
  | none => exact State.touchReason_of_none known p tag _ ds
  | some w => exact State.touchReason_of_some known p tag _ ds

/-! ### SITE (R51, R52) -/

theorem State.not_binOk_iff (s : State) (b : Nat) :
    ¬s.binOk b = true ↔ 63 < b ∨ b ≠ 0 ∧ s.binClass (Fin.ofNat 64 b) = .unused := by
  simp only [State.binOk, Bool.and_eq_true, Bool.or_eq_true, decide_eq_true_eq, beq_iff_eq, bne_iff_ne, not_and_or,
    not_or, not_not, Nat.not_le]

section
variable {s : State} {p : PortId} {tag : Byte} {n b : Nat}

theorem State.siteReason_noTouch (absent : entryOf (s.port p).touchdowns tag = none) :
    s.siteReason p tag n b = some .noTouch := by
  rw [State.siteReason, absent]

variable {e : Entry} (found : entryOf (s.port p).touchdowns tag = some e)
include found

theorem State.siteReason_sealed (sealed : e.state = .isSealed) : s.siteReason p tag n b = some .isSealed := by
  rw [State.siteReason, found]
  exact if_pos sealed

theorem State.siteReason_notListed (taking : e.state ≠ .isSealed)
    (absent : e.sites.find? (fun d => d.number.val == n) = none) : s.siteReason p tag n b = some .notListed := by
  rw [State.siteReason, found]
  dsimp only
  rw [if_neg taking, absent]

/-- The checks of a SITE that names a listed site of an entry still OPEN (R51). -/
theorem State.siteReason_listed (taking : e.state ≠ .isSealed) {d : SiteEntry}
    (listed : e.sites.find? (fun d => d.number.val == n) = some d) : s.siteReason p tag n b =
      if d.result.isSome = true then some .duplicate
      else if 63 < b ∨ b ≠ 0 ∧ s.binClass (Fin.ofNat 64 b) = .unused then some .badBin
      else none := by
  rw [State.siteReason, found]
  dsimp only
  rw [if_neg taking, listed]
  dsimp only
  simp only [← State.not_binOk_iff, ite_not]

end

theorem State.site_refused {s : State} {p : PortId} {tag n b : Byte} {r : RefuseReason}
    (reason : s.siteReason p tag n.toNat b.toNat = some r) :
    State.site p s [tag, n, b] = s.queueOut p (.refuse 0x13 r tag n) := by
  unfold State.site
  dsimp only
  rw [if_neg (not_not_intro rfl : ¬[tag, n, b].length ≠ 3),
    show s.siteReason p (charAt [tag, n, b] 0) (read1 [tag, n, b] 1) (read1 [tag, n, b] 2) = _ from reason]
  rfl

/-- A SITE that passes every check sets one result and queues no frame (R52). -/
theorem State.site_stored {s : State} {p : PortId} {tag n b : Byte}
    (passes : s.siteReason p tag n.toNat b.toNat = none) :
    State.site p s [tag, n, b] = s.withPort p fun q => { q with
      touchdowns := q.touchdowns.map fun e =>
        if e.tag = tag then e.setResult n.toNat (Fin.ofNat 64 b.toNat) else e } := by
  unfold State.site
  dsimp only
  rw [if_neg (not_not_intro rfl : ¬[tag, n, b].length ≠ 3),
    show s.siteReason p (charAt [tag, n, b] 0) (read1 [tag, n, b] 1) (read1 [tag, n, b] 2) = _ from passes]
  refine State.withPort_congr s p ?_
  simp only [beq_iff_eq]
  rfl

/-- Settles O27: each check of R51 in turn, on a list that taking the frame left as it was. -/
theorem sitesStoreTheirResults : Obligations.SitesStoreTheirResults := by
  refine ⟨fun s p bs rest finds up length => congrArg Host.Outcome.next ?_,
    fun s p tag n b rest finds up => congrArg Host.Outcome.next ?_⟩
  · rw [show s.takeHead p kindSite (State.site p) = _ from State.takeHead_up finds up _]
    exact if_pos length
  · rw [show s.takeHead p kindSite (State.site p) = _ from State.takeHead_up finds up _]
    have list := s.touchdowns_taking p 0x13 rest
    dsimp only
    split
    · next absent => exact State.site_refused (State.siteReason_noTouch (list ▸ absent))
    · next e found =>
      have found : entryOf _ tag = some e := list ▸ found
      split
      · next sealed => exact State.site_refused (State.siteReason_sealed found sealed)
      · next taking =>
        split
        · next absent => exact State.site_refused (State.siteReason_notListed found taking absent)
        · next d listed =>
          have reason := State.siteReason_listed (b := b.toNat) found taking listed
          split
          · next duplicate => exact State.site_refused (reason.trans (if_pos duplicate))
          · next empty =>
            rw [if_neg empty] at reason
            have bin_zero : b ≠ 0 ↔ b.toNat ≠ 0 := not_congr BitVec.toNat_inj.symm
            simp only [bin_zero]
            split
            · next bad => exact State.site_refused (reason.trans (if_pos bad))
            · next ok =>
              rw [State.site_stored (reason.trans (if_neg ok))]
              simp only [Entry.setResult, beq_iff_eq]

/-! ### LIFT (R53, R55) -/

theorem sealTag_eq (es : List Entry) (tag : Byte) :
    sealTag es tag = es.map fun e => if e.tag = tag then { e with state := .isSealed } else e := by
  simp only [sealTag, beq_iff_eq]

theorem frontTag_iff (es : List Entry) (tag : Byte) :
    (es.head?.any fun e => e.tag == tag) = true ↔ es.head?.map (·.tag) = some tag := by
  cases es.head? with
  | none => exact iff_of_false Bool.false_ne_true (Option.some_ne_none tag).symm
  | some e => exact beq_iff_eq.trans Option.some_inj.symm

theorem State.lift_noTouch {s : State} {p : PortId} {tag : Byte} (absent : entryOf (s.port p).touchdowns tag = none) :
    State.lift p s [tag] = s.queueOut p (.refuse 0x14 .noTouch tag 0) := by
  unfold State.lift
  dsimp only
  rw [if_neg (not_not_intro rfl : ¬[tag].length ≠ 1), show entryOf _ (charAt [tag] 0) = _ from absent]
  rfl

/-- A LIFT of a listed entry: refused where the entry is sealed, or sealing it, with the pass where it is the front. -/
theorem State.lift_found {s : State} {p : PortId} {tag : Byte} {e : Entry}
    (found : entryOf (s.port p).touchdowns tag = some e) : State.lift p s [tag] =
      if e.state = .isSealed then s.queueOut p (.refuse 0x14 .isSealed tag 0)
      else if (s.port p).touchdowns.head?.map (·.tag) = some tag then
        (s.setTouchdowns p (sealTag (s.port p).touchdowns tag)).pass p (sealTag (s.port p).touchdowns tag)
      else s.setTouchdowns p (sealTag (s.port p).touchdowns tag) := by
  unfold State.lift
  dsimp only
  rw [if_neg (not_not_intro rfl : ¬[tag].length ≠ 1), show entryOf _ (charAt [tag] 0) = _ from found]
  have run : (s.setTouchdowns p (sealTag (s.port p).touchdowns tag)).runPass p =
      (s.setTouchdowns p (sealTag (s.port p).touchdowns tag)).pass p (sealTag (s.port p).touchdowns tag) := by
    rw [State.runPass, State.setTouchdowns, State.port_withPort_self]
  rw [← run]
  simp only [← frontTag_iff]
  rfl

/-! ### The pass (R55, R56) -/

theorem State.drainClose_of_none {s : State} {h : Byte} (unknown : s.resolve h = none) (rest : List Entry) :
    s.drainClose h rest = s := by
  rw [State.drainClose, unknown]

/-- Step 3 of the pass, on the slot the handle names (R56, R25). -/
theorem State.drainClose_of_some {s : State} {h : Byte} {i : SlotId} (known : s.resolve h = some i)
    (rest : List Entry) : s.drainClose h rest =
      if (s.waferAt i).map (fun w : Wafer => w.state) = some WaferState.draining ∧ ∀ d ∈ rest, d.handle ≠ h then
        s.enterClosed i .unloaded
      else s := by
  obtain ⟨w, hw⟩ := State.waferAt_resolve known
  rw [State.drainClose, known]
  dsimp only
  rw [hw]
  simp only [Option.map_some, Option.some_inj, List.all_eq_true, bne_iff_ne]

/-- Settles O28: the LIFT by what its tag finds, and the pass by its recursion over the list. -/
theorem liftsSealAndTheFrontIsApplied : Obligations.LiftsSealAndTheFrontIsApplied := by
  refine ⟨fun s p tag rest cells finds up => ?_, fun _ _ => rfl, fun s p e rest => ?_⟩
  · refine (State.guardCells_true cells _).trans (congrArg Host.Outcome.next ?_)
    rw [show s.takeHead p kindLift (State.lift p) = _ from State.takeHead_up finds up _]
    have list := s.touchdowns_taking p 0x14 rest
    dsimp only
    split
    · next absent => exact State.lift_noTouch (list ▸ absent)
    · next e found => rw [State.lift_found (list ▸ found), list, sealTag_eq]; rfl
  · rw [State.pass_cons, State.passOne]
    cases he : e.state with
    | isOpen => rfl
    | isSealed =>
      rw [if_pos rfl, if_neg EntryState.noConfusion]
      refine congrArg (State.pass p rest) ?_
      split
      · next unknown => exact State.drainClose_of_none unknown rest
      · next i known => exact State.drainClose_of_some known rest

end Sys2Proof.Machine
end

section
/-! PROOFS. The counts of every step, one site by its result and its die's cell, and the feeding of an applied result
(O13, O30, O31). -/
namespace Sys2Proof.Machine

section
variable {s : State} {i : SlotId} {w : Wafer}

/-! ### The feeding of an applied result (R78 to R82) -/

theorem watches_iff (o : Option Watched) (n : Nat) : (o.any fun e => e.bin == n) = true ↔ o.map (·.bin) = some n := by
  cases o with
  | none => exact iff_of_false Bool.false_ne_true (Option.some_ne_none n).symm
  | some e => exact beq_iff_eq.trans Option.some_inj.symm

theorem State.runDetect_of_some (hw : s.waferAt i = some w) :
    s.runDetect i = s.giveVerdict i (runSource, runVerdict w.active w.run) := by
  rw [State.runDetect, hw]

theorem State.closeIfFull_of_some (hw : s.waferAt i = some w) :
    s.closeIfFull i = if w.window.count = w.active.window then s.closeWindow i else s := by
  simp only [State.closeIfFull, State.windowFull, hw, Option.any_some, beq_iff_eq]

/-- The five steps of R78 on the record that stands in the slot: the RUN verdict leaves the window count and the active
profile, so the window is full exactly where the fed count is its length. -/
theorem State.feedResult_of_some (hw : s.waferAt i = some w) (retest : Bool) (n : SiteId) (r : Bin) :
    s.feedResult i retest n r =
      let judged := (s.withWafer i fun w => w.feed retest n r (s.binClass r)).giveVerdict i
        (runSource, runVerdict w.active (runAfter w.run (s.binClass r)))
      if w.window.count + 1 = w.active.window then judged.closeWindow i else judged := by
  have fed := (s.updates_withWafer i fun w => w.feed retest n r (s.binClass r)).at hw
  have judged := (State.updates_giveVerdict _ i (runSource, runVerdict w.active (runAfter w.run (s.binClass r)))).at fed
  rw [State.feedResult, State.runDetect_of_some fed]
  exact State.closeIfFull_of_some judged

/-! ### One site (R69 to R77) -/

theorem mkCell_toNat {n : Nat} (h : n ≤ 3) (b : Bin) : (mkCell n b).toNat = 64 * n + b.val := by
  have := b.isLt
  simp only [mkCell, BitVec.toNat_ofNat]
  omega

/-- The better of a PASS bin and a FAIL bin is the PASS bin (R75). -/
theorem betterBin_pass_fail {cls : Bin → BinClass} {b r : Bin} (hb : cls b = .pass) (hr : cls r = .fail) :
    betterBin cls b r = b ∧ betterBin cls r b = b := by
  have unlike : cls r ≠ .pass := by rw [hr]; exact BinClass.noConfusion
  exact ⟨if_pos ⟨hb, unlike⟩, (if_neg fun h => unlike h.1).trans (if_pos ⟨hb, unlike⟩)⟩

/-- The better of two bins of one class is the one of lower code (R75). -/
theorem betterBin_same_class {cls : Bin → BinClass} {b r : Bin} (same : cls b = cls r) (le : b ≤ r) :
    betterBin cls b r = b ∧ betterBin cls r b = b := by
  have apart : ∀ c : BinClass, ¬(c = .pass ∧ c ≠ .pass) := fun _ h => h.2 h.1
  simp only [betterBin, same, apart, if_false]
  refine ⟨if_neg (Nat.not_lt.mpr le), ?_⟩
  split
  · rfl
  · next ge => exact le_antisymm (Nat.not_lt.mp ge) le

/-- A retest moves its die to the kept bin, and between pass-dies and fail-dies where the two bins' classes are FAIL and
PASS or PASS and FAIL (R76). -/
theorem Wafer.retest_fields (w : Wafer) (cls : Bin → BinClass) (b k : Bin) : w.retest cls b k = { w with
    bins := if k = b then w.bins else tabModify (tabModify w.bins b (· - 1)) k (· + 1)
    passDies :=
      if cls b = .fail ∧ cls k = .pass then w.passDies + 1
      else if cls b = .pass ∧ cls k = .fail then w.passDies - 1
      else w.passDies
    failDies :=
      if cls b = .fail ∧ cls k = .pass then w.failDies - 1
      else if cls b = .pass ∧ cls k = .fail then w.failDies + 1
      else w.failDies } := by
  unfold Wafer.retest
  by_cases same : k = b
  · have apart : ∀ {c d : BinClass}, c ≠ d → ¬(cls b = c ∧ cls k = d) := fun differ h =>
      differ (h.1.symm.trans ((congrArg cls same).symm.trans h.2))
    have up : ¬(cls b = .fail ∧ cls k = .pass) := apart (by decide)
    have down : ¬(cls b = .pass ∧ cls k = .fail) := apart (by decide)
    simp only [if_pos same, if_neg up, if_neg down]
  · simp only [if_neg same]
    cases cls b <;> cases cls k <;> rfl

theorem State.applySite_missing (hw : s.waferAt i = some w) {d : SiteEntry} (hd : d.result = none) :
    s.applySite i d = s.withWafer i fun w => { w with missingSites := bump w.missingSites } := by
  simp only [State.applySite, hw, hd]

theorem State.applySite_skipped (hw : s.waferAt i = some w) {d : SiteEntry} (hd : d.result = some 0) :
    s.applySite i d = s.withWafer i fun w => { w with skippedSites := bump w.skippedSites } := by
  simp only [State.applySite, hw, hd, if_true]

/-- A site with a bin other than 0, by its die's cell. -/
theorem State.applySite_result (hw : s.waferAt i = some w) {d : SiteEntry} {r : Bin} (hd : d.result = some r) (r0 : r ≠ 0) :
    s.applySite i d =
      let a := w.cellAddress d.column d.row
      let c := mapRead a s.map
      let k := keptBin w.policy s.binClass (cellBin c) r
      if cellCount c = 0 then
        ({ s with map := mapWrite a (mkCell 1 r) s.map }.withWafer i
          fun w => w.firstTest r (s.binClass r)).feedResult i false d.number r
      else if cellCount c = 3 then s.withWafer i fun w => { w with excessResults := bump w.excessResults }
      else
        ({ s with map := mapWrite a (mkCell (cellCount c + 1) k) s.map }.withWafer i
          fun w => w.retest s.binClass (cellBin c) k).feedResult i true d.number r := by
  simp only [State.applySite, hw, hd, if_neg r0]

end

/-! ### The statements (R69 to R82, R84) -/

/-- Settles O13: the count law is kept as part of the books, with the laws of the lines and of the store that place an
entry's sites in their wafer's grid and blocks apart, so that a site applied to one wafer writes one cell of it and none
of another. -/
theorem stepsKeepTheCountLaw : Obligations.StepsKeepTheCountLaw := fun _ t sound he =>
  (t.books_iff.mp (step_books sound.kept he)).1

/-- Settles O31: the steps of R78 as `feedResult` takes them, with the fed record and the RUN verdict written out. -/
theorem appliedResultsAreFedInOrder : Obligations.AppliedResultsAreFedInOrder := by
  intro s i w retest n r hw c run verdict fed
  have run_eq : run = runAfter w.run c := by
    dsimp only [run, c]
    cases s.binClass r <;> rfl
  have verdict_eq : verdict = runVerdict w.active (runAfter w.run c) := run_eq ▸ rfl
  have fed_eq : fed = s.withWafer i fun w => w.feed retest n r c := by
    refine State.withWafer_congr s i fun v hv => ?_
    obtain rfl : w = v := Option.some.inj (hw.symm.trans hv)
    simp only [Wafer.feed, Window.feed, watches_iff, run_eq]
    rfl
  rw [State.feedResult_of_some hw, fed_eq, verdict_eq]

/-- Settles O30: the store's read-back, the form of a cell, the five cases of a site one by one, and the kept bin under
each policy. -/
theorem sitesAreAppliedByResultAndCell : Obligations.SitesAreAppliedByResultAndCell := by
  refine ⟨fun m a b v wf => mapRead_mapWrite wf a b v, fun _ => ⟨rfl, rfl⟩, fun n hn b => mkCell_toNat hn b,
    fun s i w d hw => ⟨State.applySite_missing hw, State.applySite_skipped hw, fun r hd r0 => ?_⟩,
    fun _ _ _ => ⟨rfl, rfl⟩, fun _ _ _ => betterBin_pass_fail, fun _ _ _ => betterBin_same_class⟩
  rw [State.applySite_result hw hd r0, Wafer.cellAddress]
  simp only [Wafer.retest_fields]
  refine ⟨fun untested => if_pos untested, fun tested => ?_, fun full => ?_⟩
  · exact (if_neg (by omega)).trans (if_neg (by omega))
  · exact (if_neg (by omega)).trans (if_pos full)

end Sys2Proof.Machine
end

section
/-! PROOFS. The verdicts of a closing window, the latch and the window close (O32, O36). -/
namespace Sys2Proof.Machine

/-! ### Verdicts (R94, R97 to R99) -/

/-- A verdict of two graded conditions is HOLD by the first and WARN by the second alone. -/
theorem gradedVerdict_iff (hold warn : Prop) [Decidable hold] [Decidable warn] :
    ((if hold then Verdict.hold else if warn then .warn else .within) = .hold ↔ hold) ∧
    ((if hold then Verdict.hold else if warn then .warn else .within) = .warn ↔ ¬hold ∧ warn) := by
  by_cases hh : hold
  · simp [hh]
  · by_cases hw : warn <;> simp [hh, hw]

theorem Window.mem_qualifying (w : Window) (n : SiteId) : n ∈ w.qualifying ↔ w.qualifies n = true := by
  simp only [Window.qualifying, List.mem_filter, mem_siteIds, true_and]

theorem siteVerdict_of_judged {w : Window} {n : SiteId} (judged : 2 ≤ w.qualifying.length ∧ n ∈ w.qualifying)
    (p : Profile) : siteVerdict p w n =
      if p.siteHold ≠ 0 ∧ p.siteHold < w.deficit n then .hold
      else if p.siteWarn ≠ 0 ∧ p.siteWarn < w.deficit n then .warn
      else .within := by
  obtain ⟨two, mem⟩ := judged
  refine if_neg (not_or.mpr ⟨Nat.not_lt.mpr two, ?_⟩)
  rw [(w.mem_qualifying n).mp mem]
  exact Bool.noConfusion

theorem siteVerdict_of_not_judged {w : Window} {n : SiteId} (apart : ¬(2 ≤ w.qualifying.length ∧ n ∈ w.qualifying))
    (p : Profile) : siteVerdict p w n = .within := by
  refine if_pos ?_
  rw [w.mem_qualifying, not_and_or, Nat.not_le, Bool.not_eq_true] at apart
  exact apart

/-- The site verdict by its two limits, for a site that is judged (R98, R99). -/
theorem siteVerdict_iff (p : Profile) (w : Window) (n : SiteId) :
    let judged := 2 ≤ w.qualifying.length ∧ n ∈ w.qualifying
    let hold := p.siteHold ≠ 0 ∧ p.siteHold < w.deficit n
    (siteVerdict p w n = .hold ↔ judged ∧ hold) ∧
    (siteVerdict p w n = .warn ↔ judged ∧ ¬hold ∧ p.siteWarn ≠ 0 ∧ p.siteWarn < w.deficit n) := by
  intro judged hold
  by_cases hj : judged
  · simp only [siteVerdict_of_judged hj, gradedVerdict_iff, hj, true_and, hold]
  · simp only [siteVerdict_of_not_judged hj, hj, false_and, reduceCtorEq, and_self]

/-! ### The order of a close's verdicts (R101) -/

theorem Alarm.currentLevel_eq (a : Alarm) : a.currentLevel = if a.state = .clear then none else a.level := by
  obtain ⟨state, level, acked, count⟩ := a
  cases state <;> rfl

/-- The entries of a list by their places, taken from a range that covers them. -/
theorem filterMap_range_getElem? {α β : Type} (f : Nat → α → β) (l : List α) {n : Nat} (covers : l.length ≤ n) :
    ((List.range n).filterMap fun i => l[i]?.map (f i)) = l.zipIdx.map fun e => f e.2 e.1 := by
  induction l generalizing f n with
  | nil => simp
  | cons x l ih =>
    obtain ⟨m, rfl⟩ := Nat.exists_eq_add_of_le' (Nat.le_trans (Nat.le_add_left 1 l.length) covers)
    have tail := ih (fun i => f (i + 1)) (Nat.le_of_succ_le_succ covers)
    simpa [List.range_succ_eq_map, List.filterMap_map, Function.comp_def, List.zipIdx_succ] using tail

theorem watchedIds_eq : watchedIds = (List.range 8).map (Fin.ofNat 8) := by decide

/-- The watched-bin verdicts of a close, one for each entry of the active list (R97, R101). -/
theorem watchedVerdicts_eq {ws : List Watched} (eight : ws.length ≤ 8) (v : Vector Nat 8) :
    ((watchedIds.filterMap fun i => (ws[i.val]?).map fun e => (binSource i, watchedVerdict e (tabGet v i))).map
      fun x => (x.1.val, x.2)) = ws.zipIdx.map fun e => (e.2 + 2, watchedVerdict e.1 (tabGet v (Fin.ofNat 8 e.2))) := by
  rw [← filterMap_range_getElem? (fun k e => (k + 2, watchedVerdict e (tabGet v (Fin.ofNat 8 k)))) ws eight,
    List.map_filterMap, watchedIds_eq, List.filterMap_map]
  refine List.filterMap_congr fun k hk => ?_
  have place : (Fin.ofNat 8 k).val = k := Nat.mod_eq_of_lt (List.mem_range.mp hk)
  simp only [Function.comp_apply, Option.map_map, place]
  exact congrArg (Option.map · _) (funext fun e => Prod.ext (congrArg (· + 2) place) rfl)

/-- Settles O32: each verdict by its graded limits, and the order of a close by the parts of its list. -/
theorem verdictsFollowTheirLimits : Obligations.VerdictsFollowTheirLimits := by
  refine ⟨fun p level y => ?_, fun e c => gradedVerdict_iff _ _, fun p w n => siteVerdict_iff p w n,
    fun p w a eight => ?_⟩
  · simp only [Option.isSome_iff_ne_none]
    exact gradedVerdict_iff _ _
  · rw [closingVerdicts, Alarm.currentLevel_eq, List.cons_append, List.map_cons, List.map_append,
      watchedVerdicts_eq eight, List.map_map]
    rfl

/-! ### Latches (R105) -/

theorem tabGet_ofFn {α : Type} {n : Nat} (f : Fin n → α) (i : Fin n) : tabGet (Vector.ofFn f) i = f i :=
  Vector.getElem_ofFn i.isLt

section
variable {s : State} {i : SlotId} {w : Wafer}

/-- The records that a latch of `n` watched entries sets to CLEAR are those of sources n + 2 to 9 (R105, Table 6-2). -/
theorem surplusBins_any_binSource (n : Nat) (src : Source) :
    (surplusBins n).any (fun j => src = binSource j) = true ↔ n + 2 ≤ src.val ∧ src.val < 10 := by
  simp only [surplusBins, List.any_eq_true, List.mem_filter, decide_eq_true_eq]
  constructor
  · rintro ⟨j, ⟨-, beyond⟩, rfl⟩
    exact ⟨Nat.add_le_add_right beyond 2, Nat.add_lt_add_right j.isLt 2⟩
  · rintro ⟨low, high⟩
    refine ⟨⟨src.val - 2, by omega⟩, ⟨mem_watchedIds _, by dsimp only; omega⟩, Fin.ext ?_⟩
    show src.val = src.val - 2 + 2
    omega

/-- The record of a wafer with its surplus BIN alarms set to CLEAR, by their sources (R105 step 2). -/
theorem Wafer.clearSurplus_eq (w : Wafer) (n : Nat) : w.clearSurplus n = { w with
    alarms := Vector.ofFn fun src : Source =>
      if n + 2 ≤ src.val ∧ src.val < 10 then Alarm.cleared else tabGet w.alarms src } := by
  have alarms : (w.clearSurplus n).alarms = Vector.ofFn fun src : Source =>
      if n + 2 ≤ src.val ∧ src.val < 10 then Alarm.cleared else tabGet w.alarms src := by
    refine tab_ext fun src => ?_
    rw [Wafer.clearSurplus_alarm, tabGet_ofFn]
    exact if_congr (surplusBins_any_binSource n src) rfl rfl
  exact congrArg (fun v => { w with alarms := v }) alarms

theorem surplusBins_any_holds (w : Wafer) (n : Nat) :
    ((surplusBins n).any fun j => (tabGet w.alarms (binSource j)).holds) = true ↔
      ∃ j : Fin 8, n ≤ j.val ∧ (tabGet w.alarms (binSource j)).holds = true := by
  simp only [surplusBins, List.any_eq_true, List.mem_filter, mem_watchedIds, true_and, decide_eq_true_eq]

theorem State.latch_of_none (hw : s.waferAt i = some w) (hst : w.staged = none) : s.latch i = s := by
  unfold State.latch
  rw [hw]
  dsimp only
  rw [hst]

/-- A latch of a staged profile, with the records it clears and the judgement it makes. -/
theorem State.latch_of_some {st : Staged} {p : PortId} (hw : s.waferAt i = some w) (hst : w.staged = some st)
    (hp : w.boundPort = some p) :
    s.latch i =
      let t := s.withWafer i fun w =>
        { w.clearSurplus st.profile.watched.length with active := st.profile, activeSource := st.source, staged := none }
      (if ∃ j : Fin 8, st.profile.watched.length ≤ j.val ∧ (tabGet w.alarms (binSource j)).holds = true then
        t.judgeHeld p (s.handleOf i) none else t).settleLamps := by
  unfold State.latch
  rw [hw]
  dsimp only
  rw [hst]
  dsimp only
  simp only [surplusBins_any_holds, hp]
  split <;> rfl

/-! ### Window closes (R93) -/

theorem State.closeWindow_of_some (hw : s.waferAt i = some w) :
    s.closeWindow i = ((w.closing.foldl (State.giveVerdict i) s).latch i).withWafer i fun w =>
      { w with windowsClosed := bump w.windowsClosed, window := Window.empty } := by
  unfold State.closeWindow
  rw [hw]
  rfl

end

/-- Settles O36: the close in its steps, and the latch with the cleared records by their sources. -/
theorem windowsCloseInOrder : Obligations.WindowsCloseInOrder := by
  refine ⟨fun s i w hw => State.closeWindow_of_some hw, fun s i w hw hst => State.latch_of_none hw hst,
    fun s i w st p hw hst hp => ?_⟩
  intro n t
  have latched : (s.withWafer i fun w => { w.clearSurplus n with
      active := st.profile, activeSource := st.source, staged := none }) = t :=
    congrArg (s.withWafer i) (funext fun w => by rw [Wafer.clearSurplus_eq]; rfl)
  rw [State.latch_of_some hw hst hp]
  dsimp only
  rw [latched]

end Sys2Proof.Machine
end

section
/-! PROOFS. LIMITS_STAGE and HOLD_RELEASE (O57). -/
namespace Sys2Proof.Machine

/-! ### The image a LIMITS_STAGE carries (Table 5-1, R102) -/

theorem readWatched_cons (b : Byte) (bs : List Byte) (i : Nat) : readWatched (b :: bs) (i + 1) = readWatched bs i := rfl

/-- A profile is read field by field from the characters of its image (Table 5-1). -/
theorem readProfile_eq (bs : List Byte) (o : Nat) :
    let one := fun (i : Nat) => (bs.getD (o + i) 0).toNat
    let two := fun (i : Nat) => 256 * one i + one (i + 1)
    readProfile bs o = ⟨two 0, one 2, one 3, two 4, two 6, two 8, two 10, one 12, one 13, two 14, two 16, two 18,
      (List.range (one 20)).map fun k => ⟨one (21 + 5 * k), two (22 + 5 * k), two (24 + 5 * k)⟩⟩ := by
  intro one two
  have watched : ∀ k, readWatched bs (o + 21 + 5 * k) = ⟨one (21 + 5 * k), two (22 + 5 * k), two (24 + 5 * k)⟩ := by
    intro k
    rw [Nat.add_assoc, show 22 + 5 * k = 21 + 5 * k + 1 by omega, show 24 + 5 * k = 21 + 5 * k + 3 by omega]
    rfl
  simp only [readProfile, watched]
  rfl

/-- A profile read behind a leading character is the one read from the rest. -/
theorem readProfile_cons (b : Byte) (bs : List Byte) : readProfile (b :: bs) 1 = readProfile bs 0 := by
  have watched : ∀ k, readWatched (b :: bs) (1 + 21 + 5 * k) = readWatched bs (0 + 21 + 5 * k) := fun k => by
    rw [show 1 + 21 + 5 * k = 0 + 21 + 5 * k + 1 by omega, readWatched_cons]
  simp only [readProfile, watched]
  rfl

/-- A profile reads back from its image behind the handle. -/
theorem readProfile_cons_image {prof : Profile} (ok : prof.accepted = true) (h : Byte) :
    readProfile (h :: prof.image) 1 = prof := by
  have image := readProfile_image prof ok []
  rwa [List.append_nil, ← readProfile_cons h] at image

theorem length_cons_image (h : Byte) (prof : Profile) : (h :: prof.image).length = 22 + 5 * prof.watched.length := by
  rw [List.length_cons, Profile.image_length]
  omega

theorem imageLengthOk_iff (bs : List Byte) :
    imageLengthOk bs = true ↔ 22 ≤ bs.length ∧ bs.length = 22 + 5 * (charAt bs 21).toNat := by
  simp only [imageLengthOk, Bool.and_eq_true, decide_eq_true_eq, beq_iff_eq, read1]

theorem imageLengthOk_cons_image {prof : Profile} (ok : prof.accepted = true) (h : Byte) :
    imageLengthOk (h :: prof.image) = true := by
  obtain ⟨-, -, -, eight⟩ := Profile.accepted_ranges ok
  have count : (charAt (h :: prof.image) 21).toNat = prof.watched.length := oneChar (by omega)
  rw [imageLengthOk_iff, count, length_cons_image]
  omega

/-! ### What a page argument names (R102) -/

theorem StoredPage.ofId_profile :
    ∀ j : Fin 6, StoredPage.ofId (BitVec.ofNat 8 (j.val + 2) : Byte).toNat = some (.profile j) := by
  decide

theorem profilePageOk_profile : ∀ j : Fin 6, profilePageOk (BitVec.ofNat 8 (j.val + 2) : Byte).toNat = true := by
  decide

/-- The profile of a profile page, or why it is refused (R102 check 6). -/
theorem State.profileOf_page (s : State) (j : Fin 6) : s.profileOf (BitVec.ofNat 8 (j.val + 2) : Byte).toNat =
    if s.pageOp.map (·.job.page) = some (.profile j) then .error .busy
    else match s.profilePage j with | .valid prof => .ok prof | _ => .error .badPage := by
  unfold State.profileOf
  rw [StoredPage.ofId_profile]
  exact if_congr (s.inFlightOn_iff _) rfl rfl

/-! ### LIMITS_STAGE (R102, R103) -/

theorem runLimitsStage_wrongLength {bs : List Byte} (wrong : wrongLength 0x50 bs) (s : State) :
    runLimitsStage s bs = s.refuse .badLength := by
  obtain ⟨notPage, notImage⟩ : bs.length ≠ 2 ∧ (bs.length < 22 ∨ bs.length ≠ 22 + 5 * (charAt bs 21).toNat) := wrong
  rw [runLimitsStage, if_neg notPage, if_pos]
  rw [← Bool.not_eq_true, imageLengthOk_iff]
  omega

theorem runLimitsStage_pageOutOfRange {b : Byte} (out : b.toNat < 2 ∨ 7 < b.toNat) (noDefault : b ≠ 0xFF) (s : State)
    (h : Byte) : runLimitsStage s [h, b] = s.refuse .badArg := by
  have refused : profilePageOk b.toNat = false := by
    rw [← Bool.not_eq_true, profilePageOk_iff]
    have : b.toNat ≠ 255 := fun e => noDefault (BitVec.eq_of_toNat_eq e)
    omega
  exact (if_pos rfl).trans (if_pos refused)

theorem runLimitsStage_imageOutOfRange {bs : List Byte} (long : bs.length ≠ 2) (image : imageLengthOk bs = true)
    (bad : (readProfile bs 1).accepted = false) (s : State) : runLimitsStage s bs = s.refuse .badLimits := by
  rw [runLimitsStage, if_neg long, image, bad]
  rfl

theorem runLimitsStage_default (s : State) (h : Byte) :
    runLimitsStage s [h, 0xFF] = s.stageCheck h fun i => (s.stage i s.defaultProfile 0xFF).accept [h] := rfl

theorem runLimitsStage_page {b : Byte} (page : profilePageOk b.toNat = true) (s : State) (h : Byte) :
    runLimitsStage s [h, b] = s.stageCheck h fun i =>
      match s.profileOf b.toNat with
      | .error st => s.refuse st
      | .ok p => (s.stage i p b).accept [h] := by
  have range : ¬profilePageOk (read1 [h, b] 1) = false := Bool.not_eq_false _ ▸ page
  exact (if_pos rfl).trans (if_neg range)

theorem runLimitsStage_image {prof : Profile} (ok : prof.accepted = true) (s : State) (h : Byte) :
    runLimitsStage s (h :: prof.image) = s.stageCheck h fun i => (s.stage i prof 0xFE).accept [h] := by
  have long : (h :: prof.image).length ≠ 2 := by
    rw [length_cons_image]
    omega
  rw [runLimitsStage, if_neg long, readProfile_cons_image ok, imageLengthOk_cons_image ok, ok]
  rfl

/-- A LIMITS_STAGE whose arguments pass is answered by its handle and the wafer's state (R102 checks 4 and 5). -/
theorem State.takeLimitsStage {s : State} {h : Byte} {bs : List Byte} {rest : List Frame} {k : SlotId → Answer}
    (finds : s.HostFinds 0x50 bs rest) (run : runLimitsStage (s.popHost rest) bs = (s.popHost rest).stageCheck h k) :
    s.takeHost 0x50 runLimitsStage =
      match (s.resolve h).bind fun i => (s.waferAt i).map fun w => (i, w) with
      | none => s.answered rest 0x50 [4]
      | some (i, w) =>
        if w.state.isBound = false then s.answered rest 0x50 [5] else (k i).1.compose (0x50 + 0x80) (k i).2 := by
  rw [State.takeHost_finds finds, run, State.stageCheck]
  cases hr : s.resolve h with
  | none =>
    rw [State.withHandle_none (s := s.popHost rest) _ hr]
    rfl
  | some i =>
    obtain ⟨w, hw⟩ := State.waferAt_resolve hr
    rw [State.withHandle_some (s := s.popHost rest) _ hr hw, Option.bind_some, hw, Option.map_some]
    dsimp only
    cases w.state.isBound <;> rfl

/-! ### HOLD_RELEASE (R118) -/

theorem Wafer.acknowledge_eq (w : Wafer) : w.acknowledge = { w with
    alarms := Vector.ofFn fun src => if (tabGet w.alarms src).holds then { tabGet w.alarms src with acked := true }
      else tabGet w.alarms src } := by
  have alarms : tabMap Alarm.acknowledge w.alarms = Vector.ofFn fun src =>
      if (tabGet w.alarms src).holds then { tabGet w.alarms src with acked := true } else tabGet w.alarms src := by
    refine tab_ext fun src => ?_
    rw [tabGet_tabMap, tabGet_ofFn, Alarm.acknowledge]
  exact congrArg (fun v => { w with alarms := v }) alarms

theorem Wafer.holdCount_eq (w : Wafer) :
    w.holdCount = (sources.filter fun src => (tabGet w.alarms src).holds).length := by
  rw [Wafer.holdCount, tabList_eq_map, List.filter_map, List.length_map, sources_eq]
  rfl

theorem State.judgeBound_judgedPort (s : State) (w : Wafer) (h : Byte) (src : Option Source) :
    s.judgeBound w.judgedPort h src = if w.state.isBound = true then s.judgeBound w.boundPort h src else s := by
  rw [Wafer.judgedPort]
  split <;> rfl

theorem runHoldRelease_eq (s : State) (h : Byte) : runHoldRelease s [h] = s.withHandle h fun i w =>
    ((s.withWafer i Wafer.acknowledge).judgeBound w.judgedPort h none).settleLamps.accept
      (h :: write1 w.holdCount) := rfl

/-- Settles O57: LIMITS_STAGE by the form of its payload and then its handle, HOLD_RELEASE through its handle. -/
theorem stagingAndReleasing : Obligations.StagingAndReleasing := by
  refine ⟨readProfile_eq, refusesLength_of (fun _ _ => rfl) fun s _ wrong => runLimitsStage_wrongLength wrong s,
    refusesLength_of (fun _ _ => rfl) fun _ _ wrong => if_pos wrong,
    fun s h bs prof source rest form finds => congrArg Host.Outcome.next ?_,
    fun s h j rest finds => congrArg Host.Outcome.next ?_,
    fun s h b rest finds out noDefault => congrArg Host.Outcome.next
      (State.takeHost_answer finds (runLimitsStage_pageOutOfRange out noDefault _ h)),
    fun s bs rest finds long image bad => congrArg Host.Outcome.next
      (State.takeHost_answer finds (runLimitsStage_imageOutOfRange long image bad _)),
    fun s h rest finds hr => congrArg Host.Outcome.next
      (State.takeHost_answer finds ((runHoldRelease_eq _ h).trans (State.withHandle_none _ hr))),
    fun s h i w rest finds hr hw => congrArg Host.Outcome.next ?_⟩
  · have run : runLimitsStage (s.popHost rest) bs =
        (s.popHost rest).stageCheck h fun i => ((s.popHost rest).stage i prof source).accept [h] := by
      rcases form with ⟨ok, rfl, rfl⟩ | ⟨rfl, rfl, rfl⟩
      · exact runLimitsStage_image ok _ h
      · exact runLimitsStage_default _ h
    exact State.takeLimitsStage finds run
  · refine (State.takeLimitsStage finds (runLimitsStage_page (profilePageOk_profile j) _ h)).trans ?_
    have named : (s.popHost rest).profileOf (BitVec.ofNat 8 (j.val + 2) : Byte).toNat = _ := s.profileOf_page j
    rw [named]
    rcases (s.resolve h).bind fun i => (s.waferAt i).map fun w => (i, w) with _ | ⟨i, w⟩
    · rfl
    · refine if_congr Iff.rfl rfl ?_
      by_cases busy : s.pageOp.map (·.job.page) = some (.profile j)
      · rw [if_pos busy, if_pos busy]
        rfl
      · rw [if_neg busy, if_neg busy]
        cases s.profilePage j <;> rfl
  · rw [State.takeHost_finds finds, runHoldRelease_eq, State.withHandle_some (s := s.popHost rest) _ hr hw,
      State.judgeBound_judgedPort, Wafer.holdCount_eq, show Wafer.acknowledge = _ from funext Wafer.acknowledge_eq]
    rfl

end Sys2Proof.Machine
end

section
/-! PROOFS. What HELD and the lamps read of the state, and the changes that keep both true (R121, R126 to R128; for O8,
O15). -/
namespace Sys2Proof.Machine

/-! ### What HELD and the lamps read -/

/-- The session of a port whose head is lost (Table 8-4). -/
def Session.isLost : Session → Bool
  | .lost _ => true
  | .disabled => false
  | .down => false
  | .up => false

/-- What the lamps read of a port. -/
def Port.signs (q : Port) : Bool × Bool := (q.held, q.session.isLost)

/-- What HELD and the lamps read of a record. -/
def Wafer.signs (w : Wafer) : (WaferState × Option PortId) × Vector Alarm 26 := ((w.state, w.boundPort), w.alarms)

/-- What HELD and the lamps read of a record while it is in a bound state. -/
def Wafer.boundSigns (w : Wafer) : Option ((WaferState × Option PortId) × Vector Alarm 26) :=
  if w.state.isBound then some w.signs else none

/-- What HELD and the lamps read of a slot. -/
def State.signsAt (s : State) (i : SlotId) : Option ((WaferState × Option PortId) × Vector Alarm 26) :=
  (s.waferAt i).bind Wafer.boundSigns

theorem Wafer.boundSigns_of_signs {v w : Wafer} (h : v.signs = w.signs) : v.boundSigns = w.boundSigns := by
  have state : v.state = w.state := congrArg (fun x => x.1.1) h
  unfold Wafer.boundSigns
  rw [state, h]

/-- The answer to a question about bound wafers that is read off the signs. -/
theorem State.any_of_signsAt {s t : State} {i : SlotId} {f : Wafer → Bool} (hf : ∀ w, f w = true → w.state.isBound = true)
    (hs : ∀ v w, v.signs = w.signs → f v = f w) (h : t.signsAt i = s.signsAt i) :
    (t.waferAt i).any f = (s.waferAt i).any f := by
  have unbound : ∀ w, w.boundSigns = none → f w = false := fun w hw => Bool.eq_false_iff.mpr fun h => by
    rw [Wafer.boundSigns, if_pos (hf w h)] at hw
    cases hw
  have bound : ∀ v w, v.boundSigns = w.boundSigns → f v = f w := fun v w e => by
    by_cases hv : v.state.isBound = true
    · by_cases hw : w.state.isBound = true
      · rw [Wafer.boundSigns, Wafer.boundSigns, if_pos hv, if_pos hw] at e
        exact hs v w (Option.some.inj e)
      · rw [unbound w (if_neg hw), unbound v (e.trans (if_neg hw))]
    · rw [unbound v (if_neg hv), unbound w (e.symm.trans (if_neg hv))]
  unfold State.signsAt at h
  cases hv : t.waferAt i with
  | none =>
    rw [hv] at h
    cases hw : s.waferAt i with
    | none => rfl
    | some w => rw [hw] at h; exact (unbound w h.symm).symm
  | some v =>
    rw [hv] at h
    cases hw : s.waferAt i with
    | none => rw [hw] at h; exact unbound v h
    | some w => rw [hw] at h; exact bound v w h

theorem tabList_any_congr {α : Type} {n : Nat} {v w : Vector α n} {f g : α → Bool}
    (h : ∀ i, f (tabGet v i) = g (tabGet w i)) : (tabList v).any f = (tabList w).any g := by
  rw [Bool.eq_iff_iff, tabList_any, tabList_any]
  exact exists_congr fun i => by rw [h i]

/-- The five conditions of Table 6-4, in rank order. -/
theorem State.conditions_eq (s : State) : s.conditions =
    [((tabList s.ports).any (·.held), s.lampTable.hold),
      (s.someWafer fun w => w.state.isBound && w.boundPort.isSome && w.warns, s.lampTable.warn),
      ((tabList s.ports).any (·.session.isLost), s.lampTable.lost),
      (s.someWafer fun w => w.state == .active, s.lampTable.probing),
      (!s.someWafer fun w => w.state.isBound && w.boundPort.isSome, s.lampTable.idle)] := by
  have lost : (tabList s.ports).any (fun q => match q.session with | .lost _ => true | _ => false) =
      (tabList s.ports).any (·.session.isLost) :=
    tabList_any_congr fun p => by cases (tabGet s.ports p).session <;> rfl
  exact congrArg (fun b => [_, _, (b, _), _, _]) lost

/-- A change that neither HELD nor the conditions of the lamps see, and no lamp shows. -/
structure State.Unseen (s t : State) : Prop where
  table : t.lampTable = s.lampTable
  ports : ∀ p, (t.port p).signs = (s.port p).signs
  wafers : ∀ i, t.signsAt i = s.signsAt i
  shown : ∀ l, (t.lamps.get l).shown = (s.lamps.get l).shown
  fits : ∀ l, (s.lamps.get l).Law → (t.lamps.get l).Law

section
variable {s t u : State}

theorem State.Unseen.held (h : s.Unseen t) (p : PortId) : (t.port p).held = (s.port p).held :=
  congrArg Prod.fst (h.ports p)

theorem State.Unseen.someWafer (h : s.Unseen t) {f : Wafer → Bool} (hf : ∀ w, f w = true → w.state.isBound = true)
    (hs : ∀ v w, v.signs = w.signs → f v = f w) : t.someWafer f = s.someWafer f := by
  unfold State.someWafer
  rw [Bool.eq_iff_iff, tabList_any, tabList_any]
  exact exists_congr fun i => Bool.eq_iff_iff.mp (State.any_of_signsAt hf hs (h.wafers i))

theorem Wafer.signs_eq {v w : Wafer} (h : v.signs = w.signs) :
    v.state = w.state ∧ v.boundPort = w.boundPort ∧ v.alarms = w.alarms := by
  obtain ⟨binding, alarms⟩ := Prod.mk.inj h
  obtain ⟨state, port⟩ := Prod.mk.inj binding
  exact ⟨state, port, alarms⟩

/-- The five conditions are read off the signs (Table 6-4). -/
theorem State.Unseen.conditions (h : s.Unseen t) : t.conditions = s.conditions := by
  have held : (tabList t.ports).any (·.held) = (tabList s.ports).any (·.held) := tabList_any_congr h.held
  have lost : (tabList t.ports).any (·.session.isLost) = (tabList s.ports).any (·.session.isLost) :=
    tabList_any_congr fun p => congrArg Prod.snd (h.ports p)
  have warn : t.someWafer (fun w => w.state.isBound && w.boundPort.isSome && w.warns) = s.someWafer _ :=
    h.someWafer (fun w hw => (Bool.and_eq_true_iff.mp (Bool.and_eq_true_iff.mp hw).1).1) fun v w e => by
      obtain ⟨state, port, alarms⟩ := Wafer.signs_eq e
      rw [state, port, Wafer.warns, alarms, ← Wafer.warns]
  have probing : t.someWafer (fun w => w.state == .active) = s.someWafer _ :=
    h.someWafer (fun w hw => by rw [beq_iff_eq.mp hw]; rfl) fun v w e => by rw [(Wafer.signs_eq e).1]
  have bound : t.someWafer (fun w => w.state.isBound && w.boundPort.isSome) = s.someWafer _ :=
    h.someWafer (fun w hw => (Bool.and_eq_true_iff.mp hw).1) fun v w e => by
      obtain ⟨state, port, -⟩ := Wafer.signs_eq e
      rw [state, port]
  rw [State.conditions_eq, State.conditions_eq, held, lost, warn, probing, bound, h.table]

theorem State.Unseen.lampPattern (h : s.Unseen t) (l : Lamp) : t.lampPattern l = s.lampPattern l := by
  unfold State.lampPattern
  rw [h.conditions]

theorem State.Unseen.heldBut (h : s.Unseen t) {x : Option PortId} (k : s.HeldBut x) : t.HeldBut x := fun q hq => by
  rw [h.held q, k q hq]
  refine (State.heldBy_congr fun i => State.any_of_signsAt (fun w hw => ?_) (fun v w e => ?_) (h.wafers i)).symm
  · exact (Bool.and_eq_true_iff.mp (Bool.and_eq_true_iff.mp hw).1).1
  · obtain ⟨state, port, alarms⟩ := Wafer.signs_eq e
    unfold Wafer.pins Wafer.boundTo Wafer.holds
    rw [state, port, alarms]

/-! ### What keeps HELD and the lamps true -/

/-- Each lamp's output and timer fit what it shows (R128). -/
def State.LampPhases (s : State) : Prop := ∀ l, (s.lamps.get l).Law

theorem State.LampLaw.phases (h : s.LampLaw) : s.LampPhases := fun l => (h l).2

theorem State.LampPhases.same (h : s.LampPhases) (e : t.lamps = s.lamps := by rfl) : t.LampPhases := by
  unfold State.LampPhases
  rw [e]
  exact h

/-- A lamp that begins to show a pattern or goes dark fits what it shows. -/
theorem LampState.law_start (x : Option Pattern) : (LampState.start x).Law := by
  cases x with
  | none => exact ⟨fun _ => ⟨rfl, rfl⟩, nofun, nofun⟩
  | some pat =>
    refine ⟨nofun, fun e => ?_, fun p hp => ?_⟩
    · cases e; exact ⟨rfl, rfl⟩
    · cases hp; exact Nat.le_refl _

theorem LampState.Law.show {l : LampState} (h : l.Law) (x : Option Pattern) : (l.show x).Law := by
  unfold LampState.show
  split
  · exact h
  · exact law_start x

theorem LampState.shown_show (l : LampState) (x : Option Pattern) : (l.show x).shown = x := by
  unfold LampState.show
  split
  · assumption
  · rw [LampState.start_eq]

/-- Deriving the lamps makes each show its pattern (R127). -/
theorem State.LampPhases.lampLaw (h : s.LampPhases) : s.settleLamps.LampLaw := fun l => by
  rw [State.settleLamps_get]
  exact ⟨LampState.shown_show _ _, (h l).show _⟩

theorem State.LampPhases.settleLamps (h : s.LampPhases) : s.settleLamps.LampPhases := h.lampLaw.phases

/-- HELD stays as the records say and the lamps as the conditions say. -/
structure State.KeepsSigns (s t : State) : Prop where
  held : s.HeldBut none → t.HeldBut none
  phases : s.LampPhases → t.LampPhases
  lamps : s.LampLaw → t.LampLaw

theorem State.KeepsSigns.refl (s : State) : s.KeepsSigns s := ⟨id, id, id⟩

theorem State.KeepsSigns.trans (h : s.KeepsSigns t) (k : t.KeepsSigns u) : s.KeepsSigns u :=
  ⟨k.held ∘ h.held, k.phases ∘ h.phases, k.lamps ∘ h.lamps⟩

theorem State.KeepsSigns.foldl {α : Type} {f : State → α → State} (hf : ∀ (s : State) x, s.KeepsSigns (f s x))
    (xs : List α) : ∀ s : State, s.KeepsSigns (xs.foldl f s) := by
  induction xs with
  | nil => exact fun s => .refl s
  | cons x xs ih => exact fun s => (hf s x).trans (ih (f s x))

/-- What is not seen keeps both. -/
theorem State.Unseen.keepsSigns (h : s.Unseen t) : s.KeepsSigns t :=
  ⟨fun k => h.heldBut k, fun k l => h.fits l (k l), fun k l =>
    ⟨(h.shown l).trans ((k l).1.trans (h.lampPattern l).symm), h.fits l (k l).2⟩⟩

/-- From one state to another nothing changes, or the lamps are derived last, from phases that fit. -/
def State.Resettles (s t : State) : Prop := t = s ∨ ∃ u : State, t = u.settleLamps ∧ (s.LampPhases → u.LampPhases)

/-- Then the lamps are kept true, whatever they should have shown on the way. -/
theorem State.Resettles.keepsSigns (h : s.Resettles t) (held : s.HeldBut none → t.HeldBut none) : s.KeepsSigns t := by
  rcases h with rfl | ⟨u, rfl, fits⟩
  · exact .refl t
  · exact ⟨held, fun k => (fits k).settleLamps, fun k => (fits k.phases).lampLaw⟩

/-! ### The plain updates -/

theorem State.KeepsSigns.settleLamps (h : s.KeepsSigns t) : s.KeepsSigns t.settleLamps :=
  h.trans (State.Resettles.keepsSigns (.inr ⟨t, rfl, id⟩) State.HeldBut.settleLamps)

/-- A change of what neither the slots, the ports nor the lamps hold. -/
theorem State.KeepsSigns.aside (h : s.KeepsSigns t) (ht : u.lampTable = t.lampTable := by rfl)
    (hl : u.lamps = t.lamps := by rfl) (hp : u.ports = t.ports := by rfl) (hs : u.slots = t.slots := by rfl) :
    s.KeepsSigns u := by
  refine h.trans (State.Unseen.keepsSigns ⟨ht, fun p => ?_, fun i => ?_, fun l => by rw [hl], fun l => by rw [hl]; exact id⟩)
  · exact congrArg (fun v => (tabGet v p).signs) hp
  · exact congrArg (fun v => (tabGet v i).wafer.bind Wafer.boundSigns) hs

theorem State.KeepsSigns.notify (h : s.KeepsSigns t) (n : Notice) : s.KeepsSigns (t.notify n) :=
  h.aside (t.notify_lampTable n) (t.notify_lamps n) (t.notify_ports n) (t.notify_slots n)

theorem State.KeepsSigns.withPort (h : s.KeepsSigns t) (p : PortId) (f : Port → Port)
    (hf : (f (t.port p)).signs = (t.port p).signs := by rfl) : s.KeepsSigns (t.withPort p f) := by
  refine h.trans (State.Unseen.keepsSigns ⟨rfl, fun q => ?_, fun _ => rfl, fun _ => rfl, fun _ => id⟩)
  by_cases hq : q = p
  · rw [hq, State.port_withPort_self, hf]
  · rw [State.port_withPort_ne _ _ hq]

/-- A change of the slots that leaves each its signs. -/
theorem State.KeepsSigns.withSlots (h : s.KeepsSigns t) (v : Vector Slot 12)
    (hv : ∀ i, State.signsAt { t with slots := v } i = t.signsAt i) : s.KeepsSigns { t with slots := v } :=
  h.trans (State.Unseen.keepsSigns ⟨rfl, fun _ => rfl, hv, fun _ => rfl, fun _ => id⟩)

theorem State.KeepsSigns.withWafer (h : s.KeepsSigns t) (i : SlotId) (f : Wafer → Wafer)
    (hf : ∀ w, (f w).signs = w.signs := by intro _; rfl) : s.KeepsSigns (t.withWafer i f) := by
  refine h.withSlots _ fun j => ?_
  show ((t.withWafer i f).waferAt j).bind _ = (t.waferAt j).bind _
  by_cases hj : j = i
  · rw [hj, State.waferAt_withWafer_self]
    cases t.waferAt i with
    | none => rfl
    | some w => exact Wafer.boundSigns_of_signs (hf w)
  · rw [State.waferAt_withWafer_ne _ _ hj]

theorem State.KeepsSigns.queueOut (h : s.KeepsSigns t) (p : PortId) (f : HeadOut) : s.KeepsSigns (t.queueOut p f) :=
  h.withPort p _

theorem State.KeepsSigns.queueOutIfUp (h : s.KeepsSigns t) (p : PortId) (f : HeadOut) :
    s.KeepsSigns (t.queueOutIfUp p f) := by
  unfold State.queueOutIfUp
  split
  · exact h.queueOut p f
  · exact h

theorem State.KeepsSigns.setTouchdowns (h : s.KeepsSigns t) (p : PortId) (es : List Entry) :
    s.KeepsSigns (t.setTouchdowns p es) := h.withPort p _

end

end Sys2Proof.Machine
end

section
/-! PROOFS. Judgements, verdicts, window closes, applications, a wafer's end and the loss of a head keep HELD and the
lamps true (R121, R126; for O8, O15). -/
namespace Sys2Proof.Machine

section
variable {s t : State}

/-! ### Judgements of HELD (R121 to R123) -/

theorem State.queueOutIfUp_lamps (s : State) (p : PortId) (f : HeadOut) : (s.queueOutIfUp p f).lamps = s.lamps := by
  unfold State.queueOutIfUp
  split <;> rfl

theorem State.holdPort_lamps (s : State) (p : PortId) (h : Byte) (src : Source) : (s.holdPort p h src).lamps = s.lamps :=
  (State.notify_lamps _ _).trans (s.queueOutIfUp_lamps p _)

theorem State.freePort_lamps (s : State) (p : PortId) (h : Byte) : (s.freePort p h).lamps = s.lamps :=
  (State.notify_lamps _ _).trans (s.queueOutIfUp_lamps p _)

theorem State.LampPhases.notify (h : s.LampPhases) (n : Notice) : (s.notify n).LampPhases := h.same (s.notify_lamps n)

theorem State.resettles_judgeHeld (s : State) (p : PortId) (h : Byte) (src : Option Source) :
    s.Resettles (s.judgeHeld p h src) := by
  unfold State.judgeHeld
  split
  · exact .inl rfl
  · refine .inr ⟨_, rfl, fun k => k.same ?_⟩
    split
    · exact s.holdPort_lamps p h _
    · exact s.freePort_lamps p h

theorem State.KeepsSigns.judgeHeld (h : s.KeepsSigns t) (p : PortId) (x : Byte) (src : Option Source) :
    s.KeepsSigns (t.judgeHeld p x src) :=
  h.trans ((t.resettles_judgeHeld p x src).keepsSigns fun k => (k.weaken _).judgeHeld x src)

theorem State.LampPhases.judgeBound (h : s.LampPhases) (p : Option PortId) (x : Byte) (src : Option Source) :
    (s.judgeBound p x src).LampPhases := by
  cases p with
  | none => exact h
  | some p => exact ((State.KeepsSigns.refl s).judgeHeld p x src).phases h

/-! ### Verdicts, windows and applications -/

theorem State.LampPhases.alarmEffects (h : s.LampPhases) (i : SlotId) (p : Option PortId) (x : Byte) (src : Source)
    (e : AlarmEvent) : (s.alarmEffects i p x src e).LampPhases := by
  cases e with
  | none => exact h
  | raised l =>
    cases l with
    | warn => exact .notify h.same _
    | hold => exact .judgeBound (.notify h.same _) _ _ _
  | escalated => exact .judgeBound (h.notify _) _ _ _
  | cleared l => exact h.notify _

theorem State.resettles_giveVerdict (s : State) (i : SlotId) (sv : Source × Verdict) :
    s.Resettles (s.giveVerdict i sv) := by
  show s.Resettles (State.giveVerdict i s sv)
  unfold State.giveVerdict
  split
  · exact .inl rfl
  · exact .inr ⟨_, rfl, fun k => .alarmEffects k.same _ _ _ _ _⟩

theorem State.KeepsSigns.giveVerdict (h : s.KeepsSigns t) (i : SlotId) (sv : Source × Verdict) :
    s.KeepsSigns (t.giveVerdict i sv) :=
  h.trans ((t.resettles_giveVerdict i sv).keepsSigns fun k => k.giveVerdict i sv)

theorem State.resettles_latch (s : State) (i : SlotId) : s.Resettles (s.latch i) := by
  unfold State.latch
  split
  · exact .inl rfl
  · split
    · exact .inl rfl
    · dsimp only
      split
      · exact .inr ⟨_, rfl, fun k => .judgeBound k.same _ _ _⟩
      · exact .inr ⟨_, rfl, fun k => k.same⟩

theorem State.KeepsSigns.closeWindow (h : s.KeepsSigns t) (i : SlotId) : s.KeepsSigns (t.closeWindow i) := by
  unfold State.closeWindow
  split
  · exact h
  · refine .withWafer (State.KeepsSigns.trans ?_ ((State.resettles_latch _ i).keepsSigns fun k => k.latch i)) i _
    exact h.trans (.foldl (fun u x => (State.KeepsSigns.refl u).giveVerdict i x) _ t)

theorem State.KeepsSigns.feedResult (h : s.KeepsSigns t) (i : SlotId) (retest : Bool) (n : SiteId) (r : Bin) :
    s.KeepsSigns (t.feedResult i retest n r) := by
  have ran : s.KeepsSigns ((t.withWafer i fun w => w.feed retest n r (t.binClass r)).runDetect i) := by
    unfold State.runDetect
    split
    · exact (h.withWafer i _).giveVerdict i _
    · exact h.withWafer i _
  unfold State.feedResult State.closeIfFull
  split
  · exact ran.closeWindow i
  · exact ran

theorem Wafer.signs_retest (w : Wafer) (cls : Bin → BinClass) (b k : Bin) : (w.retest cls b k).signs = w.signs := by
  unfold Wafer.retest
  split
  · rfl
  · dsimp only
    split <;> rfl

theorem State.KeepsSigns.applySite (h : s.KeepsSigns t) (i : SlotId) (d : SiteEntry) :
    s.KeepsSigns (t.applySite i d) := by
  unfold State.applySite
  split
  · exact h
  · split
    · exact h.withWafer i _
    · split
      · exact h.withWafer i _
      · dsimp only
        split
        · exact .feedResult (h.aside.withWafer i _) _ _ _ _
        · split
          · exact h.withWafer i _
          · exact .feedResult (h.aside.withWafer i _ fun w => w.signs_retest _ _ _) _ _ _ _

theorem State.KeepsSigns.applyEntry (h : s.KeepsSigns t) (e : Entry) : s.KeepsSigns (t.applyEntry e) := by
  unfold State.applyEntry
  split
  · exact h
  · exact .withWafer (h.trans (.foldl (fun u d => (State.KeepsSigns.refl u).applySite _ d) _ t)) _ _

/-! ### A wafer's end and the pass (R25, R26, R34, R55) -/

theorem State.rollUp_lamps (s : State) (w : Wafer) (p : Option PortId) (x : Byte) : (s.rollUp w p x).lamps = s.lamps := by
  unfold State.rollUp
  split
  · rfl
  · split
    · rfl
    · dsimp only
      split
      · rfl
      · split
        · exact State.notify_lamps _ _
        · rfl

theorem State.countAbandoned_lamps (s : State) (w : Wafer) : (s.countAbandoned w).lamps = s.lamps := by
  unfold State.countAbandoned
  split <;> rfl

theorem State.dropAssignAt_lamps (s : State) (p : Option PortId) (x : Byte) : (s.dropAssignAt p x).lamps = s.lamps := by
  cases p <;> rfl

theorem State.resettles_enterClosed (s : State) (i : SlotId) (c : CloseCause) : s.Resettles (s.enterClosed i c) := by
  unfold State.enterClosed
  split
  · exact .inl rfl
  · refine .inr ⟨_, rfl, fun k => .judgeBound (k.same ?_) _ _ _⟩
    rw [State.rollUp_lamps, State.notify_lamps, State.dropAssignAt_lamps]
    rfl

theorem State.KeepsSigns.enterClosed (h : s.KeepsSigns t) (i : SlotId) (c : CloseCause) :
    s.KeepsSigns (t.enterClosed i c) :=
  h.trans ((t.resettles_enterClosed i c).keepsSigns fun k => k.enterClosed i c)

theorem State.resettles_enterAbandoned (s : State) (i : SlotId) : s.Resettles (s.enterAbandoned i) := by
  unfold State.enterAbandoned
  split
  · exact .inl rfl
  · refine .inr ⟨_, rfl, fun k => .judgeBound (k.same ?_) _ _ _⟩
    rw [State.countAbandoned_lamps, State.dropAssignAt_lamps]
    rfl

theorem State.KeepsSigns.enterAbandoned (h : s.KeepsSigns t) (i : SlotId) : s.KeepsSigns (t.enterAbandoned i) :=
  h.trans ((t.resettles_enterAbandoned i).keepsSigns fun k => k.enterAbandoned i)

theorem State.KeepsSigns.drainClose (h : s.KeepsSigns t) (x : Byte) (rest : List Entry) :
    s.KeepsSigns (t.drainClose x rest) := by
  unfold State.drainClose
  split
  · exact h
  · split
    · exact h
    · split
      · exact h.enterClosed _ _
      · exact h

theorem State.KeepsSigns.pass (p : PortId) (es : List Entry) : ∀ {t : State}, s.KeepsSigns t → s.KeepsSigns (t.pass p es) := by
  induction es with
  | nil => exact fun h => h
  | cons e rest ih =>
    intro t h
    unfold State.pass
    split
    · exact ih (((h.applyEntry e).setTouchdowns p rest).drainClose _ _)
    · exact h

theorem State.KeepsSigns.runPass (h : s.KeepsSigns t) (p : PortId) : s.KeepsSigns (t.runPass p) := h.pass p _

/-! ### Voiding and the loss of a head (R60, R61, R158) -/

theorem State.KeepsSigns.voidWafer (h : s.KeepsSigns t) (p : PortId) (i : SlotId) (x : Byte) :
    s.KeepsSigns (t.voidWafer p i x) := by
  unfold State.voidWafer
  dsimp only
  split
  · exact .runPass (.setTouchdowns (h.withWafer i _) p _) p
  · exact .setTouchdowns (h.withWafer i _) p _

theorem State.KeepsSigns.endTouchdowns (h : s.KeepsSigns t) (i : SlotId) (w : Wafer) (x : Byte) :
    s.KeepsSigns (t.endTouchdowns i w x) := by
  unfold State.endTouchdowns
  split
  · exact (h.voidWafer _ i x).queueOutIfUp _ _
  · exact h

theorem State.KeepsSigns.voidAll (h : s.KeepsSigns t) (p : PortId) : s.KeepsSigns (t.voidAll p) := by
  refine .setTouchdowns (h.trans (.foldl (fun u e => ?_) _ t)) p _
  unfold State.countVoided
  split
  · exact (State.KeepsSigns.refl u).withWafer _ _
  · exact .refl u

theorem State.KeepsSigns.closeIfDraining (h : s.KeepsSigns t) (p : PortId) (i : SlotId) :
    s.KeepsSigns (t.closeIfDraining p i) := by
  unfold State.closeIfDraining
  split
  · split
    · exact h.enterClosed i _
    · exact h
  · exact h

theorem State.suspendIfActive_lamps (p : PortId) (s : State) (i : SlotId) : (s.suspendIfActive p i).lamps = s.lamps := by
  show (State.suspendIfActive p s i).lamps = _
  unfold State.suspendIfActive
  split
  · split
    · exact State.notify_lamps _ _
    · rfl
  · rfl

theorem State.LampPhases.suspendActives (p : PortId) (is : List SlotId) :
    ∀ {s : State}, s.LampPhases → (is.foldl (State.suspendIfActive p) s).LampPhases := by
  induction is with
  | nil => exact fun h => h
  | cons i is ih => exact fun h => ih (h.same (State.suspendIfActive_lamps p _ i))

/-- The lamps need not be right while a loss suspends wafers and ends the session: it derives them at its end. -/
theorem State.KeepsSigns.lose (h : s.KeepsSigns t) (p : PortId) (c : LossCause) : s.KeepsSigns (t.lose p c) := by
  have closed := ((State.KeepsSigns.refl t).voidAll p).trans
    (.foldl (fun u i => (State.KeepsSigns.refl u).closeIfDraining p i) slotIds _)
  have unmanned : t.LampPhases → (t.unmanned p).LampPhases := fun k => (closed.phases k).suspendActives p slotIds
  refine h.trans (State.Resettles.keepsSigns ?_ fun k => k.lose p c)
  rw [State.lose_eq]
  generalize t.unmanned p = u at unmanned
  exact .inr ⟨_, rfl, fun k => (unmanned k).same (State.notify_lamps _ _)⟩

end

end Sys2Proof.Machine
end

section
/-! PROOFS. Line events and head frames keep HELD and the lamps true (R24, R30, R45 to R55, R121, R126, R141 to R154; for
O8, O15). -/
namespace Sys2Proof.Machine

section
variable {s t : State}

/-! ### Bindings and HELD (R121, R125) -/

/-- A change of one record that no port but perhaps one sees. -/
theorem State.HeldBut.withWaferAt (h : s.HeldBut none) (x : Option PortId) (i : SlotId) (f : Wafer → Wafer)
    (hf : ∀ w, s.waferAt i = some w → ∀ q, some q ≠ x → (f w).pins q = w.pins q) : (s.withWafer i f).HeldBut x :=
  fun q hq => by
    rw [State.heldBy_withWafer fun w hw => hf w hw q hq]
    exact h q (Option.some_ne_none q)

/-- A record in a bound state changes to another bound state at the same port. -/
theorem Wafer.pins_state {w : Wafer} (hb : w.state.isBound = true) {st : WaferState} (hst : st.isBound = true) (q : PortId) :
    Wafer.pins { w with state := st } q = w.pins q := by
  unfold Wafer.pins Wafer.boundTo
  rw [hb, hst]
  rfl

/-! ### Line events (R141 to R146) -/

theorem State.KeepsSigns.rxEffect (h : s.KeepsSigns t) (p : PortId) (e : RxEvent) : s.KeepsSigns (t.rxEffect p e) := by
  cases e with
  | quiet => exact h
  | discarded => exact h.withPort p _
  | good f =>
    show s.KeepsSigns (t.offer p f)
    unfold State.offer
    dsimp only
    split
    · exact h.withPort p _
    · split
      · exact h.withPort p _
      · exact .notify (h.withPort p _) _

theorem State.KeepsSigns.headChar (h : s.KeepsSigns t) (p : PortId) (c : RxChar) : s.KeepsSigns (State.headChar p t c) := by
  unfold State.headChar
  dsimp only
  split
  · exact h
  · exact .rxEffect (h.withPort p _) p _

theorem State.KeepsSigns.shortBreak (h : s.KeepsSigns t) (p : PortId) : s.KeepsSigns (t.shortBreak p) := by
  unfold State.shortBreak
  dsimp only
  split
  · exact h
  · exact h
  · split
    · exact .withPort (h.withPort p _) p _
    · exact h.withPort p _

theorem State.KeepsSigns.longBreak (h : s.KeepsSigns t) (p : PortId) : s.KeepsSigns (t.longBreak p) := by
  have broken := (h.shortBreak p).withPort p fun q => { q with line := .longTaken }
  unfold State.longBreak
  split
  · exact h
  · dsimp only
    split
    · exact broken.lose p _
    · exact broken

theorem Port.beginSend_signs (q : Port) : q.beginSend.signs = q.signs := by
  unfold Port.beginSend
  split
  · split <;> rfl
  · rfl

theorem Port.finishSend_signs (q : Port) (r : Bool) : (q.finishSend r).signs = q.signs := by
  unfold Port.finishSend
  split
  · rfl
  · exact Port.beginSend_signs _

/-! ### Head frames (R148 to R154) -/

theorem Port.takeFrame_signs (q : Port) (k : Byte) (rest : List Frame) : (q.takeFrame k rest).signs = q.signs := by
  unfold Port.takeFrame
  dsimp only
  split <;> rfl

theorem State.KeepsSigns.refuseFrame (h : s.KeepsSigns t) (p : PortId) (k : Byte) (r : RefuseReason) (a b : Byte) :
    s.KeepsSigns (t.refuseFrame p k r a b) := h.queueOut p _

/-- A taken frame keeps HELD and the lamps true where its owner's judgement does. -/
theorem State.KeepsSigns.takeHead (s : State) (p : PortId) (k : Byte) {owner : State → List Byte → State}
    (ho : ∀ (u : State) bs, u.KeepsSigns (owner u bs)) : s.KeepsSigns (s.takeHead p k owner) := by
  unfold State.takeHead
  split
  · next rest _ =>
    split
    · have taken := (State.KeepsSigns.refl s).withPort p (fun q => q.takeFrame k rest) (Port.takeFrame_signs _ k rest)
      dsimp only
      split
      · exact taken.trans (ho _ _)
      · exact taken.refuseFrame p k _ _ _
    · exact .refl s
  · exact .refl s

theorem State.keepsSigns_touch (s : State) (p : PortId) (bs : List Byte) : s.KeepsSigns (State.touch p s bs) := by
  have self := State.KeepsSigns.refl s
  unfold State.touch
  dsimp only
  split
  · exact self.refuseFrame p _ _ _ _
  · refine .queueOut ?_ p _
    split
    · exact self.setTouchdowns p _
    · exact self

theorem State.keepsSigns_site (s : State) (p : PortId) (bs : List Byte) : s.KeepsSigns (State.site p s bs) := by
  have self := State.KeepsSigns.refl s
  unfold State.site
  dsimp only
  split
  · exact self.refuseFrame p _ _ _ _
  · split
    · exact self.refuseFrame p _ _ _ _
    · exact self.setTouchdowns p _

theorem State.keepsSigns_lift (s : State) (p : PortId) (bs : List Byte) : s.KeepsSigns (State.lift p s bs) := by
  have self := State.KeepsSigns.refl s
  unfold State.lift
  dsimp only
  split
  · exact self.refuseFrame p _ _ _ _
  · split
    · exact self.refuseFrame p _ _ _ _
    · split
      · exact self.refuseFrame p _ _ _ _
      · split
        · exact (self.setTouchdowns p _).runPass p
        · exact self.setTouchdowns p _

/-- A wafer that becomes DRAINING stays bound to its port, so it holds its head as before (R24, R121). -/
theorem State.keepsSigns_unload (s : State) (p : PortId) (bs : List Byte) : s.KeepsSigns (State.unload p s bs) := by
  have self := State.KeepsSigns.refl s
  unfold State.unload
  dsimp only
  split
  · exact self.refuseFrame p _ _ _ _
  · split
    · next i w hi hact =>
      obtain ⟨j, hj, hw, hs, -⟩ := State.activeOn_eq_some hact
      obtain rfl : i = j := Option.some.inj (hi.symm.trans hj)
      split
      · split
        · exact self.refuseFrame p _ _ _ _
        · refine State.Resettles.keepsSigns (.inr ⟨_, rfl, fun k => k.same⟩) fun k => .settleLamps ?_
          refine k.withWaferAt none i _ fun v hv q _ => ?_
          obtain rfl : w = v := Option.some.inj (hw.symm.trans hv)
          exact Wafer.pins_state (by rw [hs]; rfl) rfl q
      · exact self.enterClosed i _
    · exact self.refuseFrame p _ _ _ _

theorem State.keepsSigns_beat (s : State) (p : PortId) (bs : List Byte) : s.KeepsSigns (State.beat p s bs) := by
  unfold State.beat
  split
  · exact .refl s
  · exact (State.KeepsSigns.refl s).refuseFrame p _ _ _ _

theorem State.keepsSigns_nonHeadFrame (s : State) (p : PortId) : s.KeepsSigns (s.nonHeadFrame p) := by
  unfold State.nonHeadFrame
  split
  · split
    · exact .refl s
    · exact (State.KeepsSigns.refl s).withPort p _
  · exact .refl s

/-! ### ANNOUNCE (R30, R152) -/

theorem State.KeepsSigns.queueHoldAfterWelcome (h : s.KeepsSigns t) (p : PortId) :
    s.KeepsSigns (t.queueHoldAfterWelcome p) := by
  unfold State.queueHoldAfterWelcome
  split
  · split
    · exact h.queueOut p _
    · exact h
  · exact h

/-- What an ANNOUNCE queues at its end. -/
theorem State.KeepsSigns.greet (h : s.KeepsSigns t) (p : PortId) (ms : Nat) (r : Option Byte) :
    s.KeepsSigns (t.greet p ms r) := .queueHoldAfterWelcome (.queueOut (h.notify _) p _) p

/-- A SUSPENDED wafer that becomes ACTIVE stays bound to its port. -/
theorem State.HeldBut.resumeAt (h : s.HeldBut none) {i : SlotId} {w : Wafer} (hw : s.waferAt i = some w)
    (hs : w.state = .suspended) (p : PortId) : (s.resumeAt p i).HeldBut none := by
  refine ((h.withWaferAt none i _ fun v hv q _ => ?_).weaken _).judgeHeld _ _
  obtain rfl : w = v := Option.some.inj (hw.symm.trans hv)
  exact Wafer.pins_state (by rw [hs]; rfl) rfl q

theorem State.keepsSigns_announceUp (s : State) (p : PortId) (serial : Word32) (n : Nat) (resume : Option Byte) :
    s.KeepsSigns (s.announceUp p serial n resume) := by
  have held : s.HeldBut none → (s.withPort p fun q => q.startSession serial n).HeldBut none := fun k => k.withPort p _
  have fits : s.LampPhases → (s.withPort p fun q => q.startSession serial n).LampPhases := fun k => k.same
  rw [State.announceUp_eq]
  dsimp only
  generalize (s.withPort p fun q => q.startSession serial n) = u at held fits
  split
  · next i hi =>
    obtain ⟨x, -, hx⟩ := Option.bind_eq_some_iff.mp hi
    obtain ⟨w, hw, he⟩ := Option.map_eq_some_iff.mp ((u.resumable_eq_some_iff p serial x i).mp hx).2
    have greeted := (State.KeepsSigns.refl (u.resumeAt p i)).greet p (u.port p).settings.periodMs resume
    refine State.Resettles.keepsSigns (.inr ⟨_, rfl, fun k => greeted.phases ?_⟩) fun k => (greeted.held ?_).settleLamps
    · exact ((State.KeepsSigns.refl _).judgeHeld p _ _).phases (fits k).same
    · exact (held k).resumeAt hw (Prod.mk.inj he).1 p
  · have greeted := (State.KeepsSigns.refl u).greet p (u.port p).settings.periodMs none
    exact State.Resettles.keepsSigns (.inr ⟨_, rfl, greeted.phases ∘ fits⟩) fun k => (greeted.held (held k)).settleLamps

theorem State.keepsSigns_announce (s : State) (p : PortId) (bs : List Byte) : s.KeepsSigns (State.announce p s bs) := by
  unfold State.announce
  split
  · exact (State.KeepsSigns.refl s).refuseFrame p _ _ _ _
  · dsimp only
    split
    · exact ((State.KeepsSigns.refl s).lose p _).trans (State.keepsSigns_announceUp _ p _ _ _)
    · exact s.keepsSigns_announceUp p _ _ _

theorem State.keepsSigns_takeAnnounce (s : State) (p : PortId) : s.KeepsSigns (s.takeAnnounce p) := by
  unfold State.takeAnnounce
  split
  · next rest _ =>
    split
    · have taken := (State.KeepsSigns.refl s).withPort p (fun q => q.takeFrame kindAnnounce rest)
        (Port.takeFrame_signs _ kindAnnounce rest)
      exact taken.trans (State.keepsSigns_announce _ p _)
    · exact .refl s
  · exact .refl s

end

end Sys2Proof.Machine
end

section
/-! PROOFS. Host commands, timers and resets keep HELD and the lamps true; every step does (O8, O15). -/
namespace Sys2Proof.Machine

section
variable {s t : State}

/-! ### HEAD_SET and HEAD_DROP (R161 to R164) -/

theorem State.KeepsSigns.takeHost (s : State) (code : Byte) {run : State → List Byte → Answer}
    (hr : ∀ (u : State) bs, u.KeepsSigns (run u bs).1) : s.KeepsSigns (s.takeHost code run) :=
  State.takeHost_keeps (P := s.KeepsSigns) (.refl s) (fun _ _ _ => (State.KeepsSigns.refl s).aside)
    (fun u bs hu => hu.trans (hr u bs)) fun _ _ _ hu => hu.aside

/-- A change of what neither HELD nor a lamp's phase is about. -/
def State.Undriven (s t : State) : Prop := (s.HeldBut none → t.HeldBut none) ∧ (s.LampPhases → t.LampPhases)

theorem State.undriven_withPort (s : State) (p : PortId) (f : Port → Port)
    (hf : ∀ q, (f q).held = q.held := by intro _; rfl) : s.Undriven (s.withPort p f) :=
  ⟨fun k => k.withPort p f hf, fun k => k.same⟩

theorem State.undriven_headSet (s : State) (p : PortId) (l : LineSettings) : s.Undriven (s.headSet p l) := by
  have port : ∀ f : Port → Port, (∀ q, (f q).held = q.held) →
      s.Undriven (((s.withPort p fun q => q.storeTimer l).withPort p fun q => q.storeDivisor l.divisor).withPort p f) :=
    fun f hf => by
      rw [State.withPort_store]
      exact s.undriven_withPort p _ fun q => hf _
  have stored : s.Undriven ((s.withPort p fun q => q.storeTimer l).withPort p fun q => q.storeDivisor l.divisor) := by
    rw [State.withPort_withPort]
    exact s.undriven_withPort p _
  unfold State.headSet
  dsimp only
  split
  · split
    · have lost := (State.KeepsSigns.refl
        ((s.withPort p fun q => q.storeTimer l).withPort p fun q => q.storeDivisor l.divisor)).lose p .disabled
      exact ⟨lost.held ∘ stored.1, lost.phases ∘ stored.2⟩
    · split <;> exact port _ fun _ => rfl
  · split
    · exact stored
    · exact port _ fun _ => rfl
  all_goals
    split
    · exact port _ fun _ => rfl
    · split
      · exact stored
      · exact port _ fun _ => rfl

/-- The sessions a HEAD_SET ends or begins are seen by the lamps when it derives them at its end. -/
theorem State.keepsSigns_runHeadSet (s : State) (bs : List Byte) : s.KeepsSigns (runHeadSet s bs).1 := by
  unfold Machine.runHeadSet
  split
  · exact .refl s
  · split
    · exact .refl s
    · split
      · exact .refl s
      · next p _ _ =>
        obtain ⟨held, fits⟩ := s.undriven_headSet p (readSettings bs)
        exact State.Resettles.keepsSigns (.inr ⟨_, rfl, fits⟩) fun k => (held k).settleLamps

theorem State.keepsSigns_runHeadStatus (s : State) (bs : List Byte) : s.KeepsSigns (runHeadStatus s bs).1 := by
  unfold Machine.runHeadStatus
  split
  · exact .refl s
  · split
    · exact .refl s
    · exact (State.KeepsSigns.refl s).withPort _ _

theorem State.keepsSigns_runHeadDrop (s : State) (bs : List Byte) : s.KeepsSigns (runHeadDrop s bs).1 := by
  unfold Machine.runHeadDrop
  split
  · exact .refl s
  · split
    · exact .refl s
    · split
      · exact .refl s
      · exact (State.KeepsSigns.refl s).lose _ _

/-! ### WAFER_OPEN (R20 to R23) -/

/-- A newly opened wafer has no record but CLEAR ones (R22). -/
theorem Wafer.pins_new (a : OpenArgs) (l : LotId) (base : Nat) (serial : Word32) (prof : Profile) (q : PortId) :
    (newWafer a l base serial prof).pins q = false := by
  have clear : (newWafer a l base serial prof).holds = false := tabList_any_false fun src => by
    show (tabGet (Vector.replicate 26 Alarm.cleared) src).holds = false
    rw [tabGet_replicate]
    rfl
  rw [Wafer.pins, clear, Bool.and_false]

/-- A wafer that holds no head fills a FREE slot. -/
theorem State.HeldBut.fillSlot (h : s.HeldBut none) {i : SlotId} (free : s.waferAt i = none) {w : Wafer}
    (hw : ∀ q, w.pins q = false) : (s.fillSlot i w).HeldBut none := fun q hq => by
  have same : (s.fillSlot i w).heldBy q = s.heldBy q := State.heldBy_congr fun j => by
    rw [State.waferAt_fillSlot]
    split
    · next e => rw [e, free, Option.any_some, hw q, Option.any_none]
    · rfl
  rw [same]
  exact h q hq

theorem State.keepsSigns_openWafer (s : State) (a : OpenArgs) {i : SlotId} (free : s.waferAt i = none) (prof : Profile)
    (l : LotId) (base : Nat) : s.KeepsSigns (s.openWafer a i prof l base) := by
  unfold State.openWafer
  dsimp only
  refine State.Resettles.keepsSigns (.inr ⟨_, rfl, fun k => ?_⟩)
    fun k => .settleLamps (.judgeHeld (.weaken (.queueOut ?_ _ _) _) _ _)
  · exact ((State.KeepsSigns.refl _).judgeHeld _ _ _).phases k.same
  · have joined : ({ s with map := mapClear base (newWafer a l base (s.port a.port).serial prof).size s.map }.joinLot l
        a.lotText).HeldBut none := k.same rfl fun _ => rfl
    exact joined.fillSlot free fun q => Wafer.pins_new _ _ _ _ _ q

theorem State.waferAt_freeSlot {i : SlotId} (h : s.freeSlot = some i) : s.waferAt i = none :=
  Option.isNone_iff_eq_none.mp (List.find?_some (p := fun i => (s.waferAt i).isNone) h)

theorem State.keepsSigns_runWaferOpen (s : State) (bs : List Byte) : s.KeepsSigns (runWaferOpen s bs).1 := by
  have self := State.KeepsSigns.refl s
  unfold Machine.runWaferOpen
  split
  · exact self
  · split
    · exact self
    · unfold State.judgeOpen
      split_ifs
      · exact self
      · exact self
      · exact self
      · split
        · exact self
        · next i free =>
          split
          · exact self
          · split
            · exact self
            · split
              · exact self
              · exact s.keepsSigns_openWafer _ (State.waferAt_freeSlot free) _ _ _

/-! ### The ends, the resuming and the discarding of a wafer (R31 to R36) -/

theorem State.keepsSigns_runWaferClose (s : State) (bs : List Byte) : s.KeepsSigns (runWaferClose s bs).1 := by
  unfold Machine.runWaferClose
  split
  · exact .refl s
  · refine State.withHandle_keeps (P := s.KeepsSigns) (.refl s) fun i w _ _ => ?_
    split
    · exact ((State.KeepsSigns.refl s).endTouchdowns i w _).enterClosed i _
    · exact .refl s

theorem State.keepsSigns_runWaferAbandon (s : State) (bs : List Byte) : s.KeepsSigns (runWaferAbandon s bs).1 := by
  unfold Machine.runWaferAbandon
  split
  · exact .refl s
  · refine State.withHandle_keeps (P := s.KeepsSigns) (.refl s) fun i w _ _ => ?_
    split
    · exact ((State.KeepsSigns.refl s).endTouchdowns i w _).enterAbandoned i
    · exact .refl s

/-- A port judged again is right where it and one other may have been wrong. -/
theorem State.judgeHeld_heldBut {p q : PortId} (h : ∀ r, r ≠ q → r ≠ p → (s.port r).held = s.heldBy r) (x : Byte)
    (src : Option Source) : (s.judgeHeld q x src).HeldBut (some p) := fun r hr => by
  rw [State.held_judgeHeld, State.heldBy_slots (s.slots_judgeHeld q x src)]
  split
  · next e => rw [e]
  · next e => exact h r e fun e' => hr (congrArg some e')

/-- The record of a wafer resumed at a port (R31). -/
def Wafer.resumed (w : Wafer) (p : PortId) (serial : Word32) : Wafer :=
  { w with state := .active, boundPort := some p, serial := serial }

/-- A WAFER_RESUME up to its judgements: the record, and its head's ASSIGN. -/
def State.reassign (s : State) (i : SlotId) (w : Wafer) (h : Byte) (p : PortId) : State :=
  ((s.withWafer i (·.resumed p (s.port p).serial)).dropAssignAt w.boundPort h).queueOut p (w.assignFrame h)

theorem State.resumeOn_eq (s : State) (i : SlotId) (w : Wafer) (h : Byte) (p : PortId) : s.resumeOn i w h p =
    (((s.reassign i w h p).judgeBound w.boundPort h none).judgeHeld p h none).settleLamps := rfl

theorem State.held_queueOut (s : State) (p q : PortId) (f : HeadOut) : ((s.queueOut p f).port q).held = (s.port q).held := by
  rw [State.queueOut, State.port_withPort]
  split <;> rfl

theorem State.held_dropAssignAt (s : State) (o : Option PortId) (x : Byte) (q : PortId) :
    ((s.dropAssignAt o x).port q).held = (s.port q).held := by
  cases o with
  | none => rfl
  | some p =>
    rw [State.dropAssignAt, State.dropAssign, State.port_withPort]
    split <;> rfl

theorem State.reassign_slots (s : State) (i : SlotId) (w : Wafer) (h : Byte) (p : PortId) :
    (s.reassign i w h p).slots = (s.withWafer i (·.resumed p (s.port p).serial)).slots := by
  unfold State.reassign
  cases w.boundPort <;> rfl

/-- A wafer resumed at another port is seen by the port it leaves and by the one it comes to, and by no other (R31). -/
theorem State.HeldBut.reassign (h : s.HeldBut none) {i : SlotId} {w : Wafer} (hw : s.waferAt i = some w) (x : Byte)
    {p q : PortId} (hq : some q ≠ w.boundPort) (hp : q ≠ p) :
    ((s.reassign i w x p).port q).held = (s.reassign i w x p).heldBy q := by
  have held : ((s.reassign i w x p).port q).held = (s.port q).held :=
    (State.held_queueOut _ p q _).trans (State.held_dropAssignAt _ _ x q)
  rw [held, State.heldBy_slots (s.reassign_slots i w x p), State.heldBy_withWafer fun v hv => ?_]
  · exact h q (Option.some_ne_none q)
  · obtain rfl : w = v := Option.some.inj (hw.symm.trans hv)
    rw [Wafer.pins_eq_false hq]
    exact Wafer.pins_eq_false fun e => hp (Option.some.inj e)

theorem State.HeldBut.resumeOn (h : s.HeldBut none) {i : SlotId} {w : Wafer} (hw : s.waferAt i = some w) (x : Byte)
    (p : PortId) : (s.resumeOn i w x p).HeldBut none := by
  have others := fun q => h.reassign hw x (p := p) (q := q)
  rw [State.resumeOn_eq]
  generalize s.reassign i w x p = u at others
  refine .settleLamps (.judgeHeld ?_ _ _)
  cases hb : w.boundPort with
  | none => exact fun q hq => others q (by rw [hb]; exact Option.some_ne_none q) fun e => hq (congrArg some e)
  | some r =>
    exact State.judgeHeld_heldBut (fun q hr hp => others q (by rw [hb]; exact fun e => hr (Option.some.inj e)) hp) x none

theorem State.keepsSigns_resumeOn (s : State) {i : SlotId} {w : Wafer} (hw : s.waferAt i = some w) (x : Byte) (p : PortId) :
    s.KeepsSigns (s.resumeOn i w x p) := by
  refine State.Resettles.keepsSigns (.inr ⟨_, rfl, fun k => ?_⟩) fun k => k.resumeOn hw x p
  refine ((State.KeepsSigns.refl _).judgeHeld p x none).phases (.judgeBound (k.same ?_) _ _ _)
  exact State.dropAssignAt_lamps _ _ _

theorem State.keepsSigns_runWaferResume (s : State) (bs : List Byte) : s.KeepsSigns (runWaferResume s bs).1 := by
  unfold Machine.runWaferResume
  split
  · exact .refl s
  · split
    · exact .refl s
    · refine State.withHandle_keeps (P := s.KeepsSigns) (.refl s) fun i w _ hw => ?_
      split_ifs
      · exact .refl s
      · exact .refl s
      · exact .refl s
      · exact s.keepsSigns_resumeOn hw _ _

/-- The signs of a slot whose wafer is in no bound state. -/
theorem State.signsAt_unbound {i : SlotId} {w : Wafer} (hw : s.waferAt i = some w) (hb : ¬w.state.isBound = true) :
    s.signsAt i = none := by
  rw [State.signsAt, hw]
  exact if_neg hb

/-- A slot that becomes FREE had no bound wafer (R36). -/
theorem State.keepsSigns_runWaferDiscard (s : State) (bs : List Byte) : s.KeepsSigns (runWaferDiscard s bs).1 := by
  unfold Machine.runWaferDiscard
  split
  · exact .refl s
  · refine State.withHandle_keeps (P := s.KeepsSigns) (.refl s) fun i w _ hw => ?_
    split
    · exact .refl s
    · next unbound =>
      refine (State.KeepsSigns.refl s).withSlots _ fun j => ?_
      show (tabGet (tabModify s.slots i Slot.vacate) j).wafer.bind _ = _
      rw [tabGet_tabModify]
      split
      · next e => rw [e, State.signsAt_unbound hw unbound]; rfl
      · rfl

/-! ### The other host commands -/

theorem State.keepsSigns_runLimitsStage (s : State) (bs : List Byte) : s.KeepsSigns (runLimitsStage s bs).1 := by
  have self := State.KeepsSigns.refl s
  have checked : ∀ {x : Byte} {k : SlotId → Answer}, (∀ i, s.KeepsSigns (k i).1) → s.KeepsSigns (s.stageCheck x k).1 :=
    fun hk => State.withHandle_keeps (P := s.KeepsSigns) self fun i w _ _ => by
      split
      · exact hk i
      · exact self
  unfold Machine.runLimitsStage
  split
  · split
    · exact self
    · refine checked fun i => ?_
      split
      · exact self
      · exact self.withWafer i _
  · split_ifs
    · exact self
    · exact self
    · exact checked fun i => self.withWafer i _

/-- Only the port a bound wafer is judged at sees its records acknowledged (R118). -/
theorem State.HeldBut.acknowledge (h : s.HeldBut none) {i : SlotId} {w : Wafer} (hw : s.waferAt i = some w) :
    (s.withWafer i Wafer.acknowledge).HeldBut w.judgedPort := by
  refine h.withWaferAt _ i _ fun v hv q hq => ?_
  obtain rfl : w = v := Option.some.inj (hw.symm.trans hv)
  have away : w.boundTo q = false := Bool.eq_false_iff.mpr fun hb => by
    obtain ⟨bound, port⟩ := Bool.and_eq_true_iff.mp hb
    exact hq ((beq_iff_eq.mp port).symm.trans (if_pos bound).symm)
  have away' : w.acknowledge.boundTo q = false := away
  rw [Wafer.pins, Wafer.pins, away, away', Bool.false_and, Bool.false_and]

theorem State.keepsSigns_runHoldRelease (s : State) (bs : List Byte) : s.KeepsSigns (runHoldRelease s bs).1 := by
  unfold Machine.runHoldRelease
  split
  · exact .refl s
  · exact State.withHandle_keeps (P := s.KeepsSigns) (.refl s) fun i w _ hw =>
      State.Resettles.keepsSigns (.inr ⟨_, rfl, fun k => .judgeBound k.same _ _ _⟩)
        fun k => ((k.acknowledge hw).judgeBound _ _).settleLamps

theorem State.keepsSigns_runBinsSet (s : State) (bs : List Byte) : s.KeepsSigns (runBinsSet s bs).1 := by
  unfold Machine.runBinsSet
  split_ifs
  · exact .refl s
  · exact .refl s
  · exact .refl s
  · generalize readBins bs = v
    exact (State.KeepsSigns.refl s).aside

/-- A new lamp table changes what the lamps should show, and they are derived again (R129). -/
theorem State.keepsSigns_runLampSet (s : State) (bs : List Byte) : s.KeepsSigns (runLampSet s bs).1 := by
  unfold Machine.runLampSet
  split
  · exact .refl s
  · split
    · exact .refl s
    · exact State.Resettles.keepsSigns (.inr ⟨_, rfl, fun k => k.same⟩) fun k => k.same rfl fun _ => rfl

theorem State.keepsSigns_runAlertSet (s : State) (bs : List Byte) : s.KeepsSigns (runAlertSet s bs).1 := by
  unfold Machine.runAlertSet
  split_ifs
  · exact .refl s
  · exact .refl s
  · exact (State.KeepsSigns.refl s).aside

theorem Slot.boundSigns_leaveLot (l : LotId) (sl : Slot) :
    (sl.leaveLot l).wafer.bind Wafer.boundSigns = sl.wafer.bind Wafer.boundSigns := by
  unfold Slot.leaveLot
  cases sl.wafer with
  | none => rfl
  | some w =>
    refine Wafer.boundSigns_of_signs ?_
    show (if w.lotEntry = some l then { w with lotEntry := none } else w).signs = w.signs
    split <;> rfl

theorem State.keepsSigns_runLotEnd (s : State) (bs : List Byte) : s.KeepsSigns (runLotEnd s bs).1 := by
  refine State.withLot_keeps (P := s.KeepsSigns) (.refl s) fun l e _ => ?_
  split
  · exact .refl s
  · refine State.KeepsSigns.aside ((State.KeepsSigns.refl s).withSlots (tabMap (Slot.leaveLot l) s.slots) fun i => ?_)
    show (tabGet (tabMap (Slot.leaveLot l) s.slots) i).wafer.bind _ = _
    rw [tabGet_tabMap]
    exact Slot.boundSigns_leaveLot l _

theorem State.keepsSigns_runNoticeFetch (s : State) (bs : List Byte) : s.KeepsSigns (runNoticeFetch s bs).1 := by
  unfold Machine.runNoticeFetch
  split
  · exact .refl s
  · exact (State.KeepsSigns.refl s).aside

/-! ### Pages, timers and resets -/

theorem State.keepsSigns_setPage (s : State) (pg : StoredPage) (v : PageBytes) (o : Option PageOp) :
    s.KeepsSigns { s.setPage pg v with pageOp := o } := by
  cases pg <;> exact (State.KeepsSigns.refl s).aside

theorem State.keepsSigns_pageDone (s : State) (stored : Bool) : s.KeepsSigns (s.pageDone stored) := by
  unfold State.pageDone
  split
  · exact .refl s
  · split
    · exact (s.keepsSigns_setPage _ _ none).notify _
    · exact .refl s

theorem State.keepsSigns_runPageErase (s : State) (bs : List Byte) : s.KeepsSigns (runPageErase s bs).1 := by
  unfold Machine.runPageErase
  split
  · exact .refl s
  · split
    · exact .refl s
    · split
      · exact .refl s
      · split
        · exact .refl s
        · exact s.keepsSigns_setPage _ _ _

theorem State.keepsSigns_runPageWrite (s : State) (bs : List Byte) : s.KeepsSigns (runPageWrite s bs).1 := by
  unfold Machine.runPageWrite
  split
  · exact .refl s
  · split
    · exact .refl s
    · split
      · exact .refl s
      · split_ifs
        · exact .refl s
        · exact .refl s
        · exact .refl s
        · exact s.keepsSigns_setPage _ _ _

theorem State.keepsSigns_silenceExpiry (s : State) (p : PortId) : s.KeepsSigns (s.silenceExpiry p) := by
  unfold State.silenceExpiry
  split
  · exact (State.KeepsSigns.refl s).lose p _
  · exact .refl s

/-- A lamp that moves to its other half shows what it showed (R128). -/
theorem LampState.expire_shown (l : LampState) : l.expire.shown = l.shown := by
  unfold LampState.expire
  split
  · rfl
  · rfl
  · split <;> rfl

theorem LampState.Law.expire {l : LampState} (h : l.Law) : l.expire.Law := by
  unfold LampState.expire
  split
  · exact h
  · exact h
  · next pat steady shown =>
    split
    · refine ⟨fun e => ?_, fun e => ?_, fun p hp => ?_⟩
      · exact (Option.some_ne_none pat (shown.symm.trans e)).elim
      · exact (steady (Option.some.inj (shown.symm.trans e))).elim
      · obtain rfl : pat = p := Option.some.inj (shown.symm.trans hp)
        exact Nat.le_refl _
    · exact h

theorem Lamps.get_modify (ls : Lamps) (l m : Lamp) (f : LampState → LampState) :
    (ls.modify l f).get m = if m = l then f (ls.get m) else ls.get m := by
  cases l <;> cases m <;> rfl

theorem State.keepsSigns_lampPhaseExpiry (s : State) (l : Lamp) :
    s.KeepsSigns { s with lamps := s.lamps.modify l LampState.expire } := by
  refine State.Unseen.keepsSigns ⟨rfl, fun _ => rfl, fun _ => rfl, fun m => ?_, fun m h => ?_⟩
  · show ((s.lamps.modify l LampState.expire).get m).shown = _
    rw [Lamps.get_modify]
    split
    · exact LampState.expire_shown _
    · rfl
  · show ((s.lamps.modify l LampState.expire).get m).Law
    rw [Lamps.get_modify]
    split
    · exact h.expire
    · exact h

theorem LampState.Law.tick {l : LampState} (h : l.Law) : l.tick.Law := by
  obtain ⟨dark, steady, half⟩ := h
  refine ⟨fun e => ⟨(dark e).1, ?_⟩, fun e => ⟨(steady e).1, ?_⟩, fun p hp => (Nat.sub_le _ _).trans (half p hp)⟩
  · rw [LampState.tick, (dark e).2]
  · rw [LampState.tick, (steady e).2]

theorem State.tick_get (s : State) (l : Lamp) : s.tick.lamps.get l = (s.lamps.get l).tick := by
  cases l <;> rfl

theorem State.keepsSigns_tick (s : State) : s.KeepsSigns s.tick := by
  refine State.Unseen.keepsSigns ⟨rfl, fun p => ?_, fun _ => rfl, fun l => ?_, fun l h => ?_⟩
  · show (tabGet (tabMap Port.tick s.ports) p).signs = _
    rw [tabGet_tabMap]
    rfl
  · rw [State.tick_get]; rfl
  · rw [State.tick_get]; exact h.tick

/-- Without a wafer and with no port HELD, HELD is as the records say. -/
theorem State.heldBut_empty (free : ∀ i, s.waferAt i = none) (down : ∀ p, (s.port p).held = false) : s.HeldBut none :=
  fun q _ => by
    rw [down q, eq_comm, Bool.eq_false_iff]
    intro h
    obtain ⟨i, w, hw, -⟩ := (s.heldBy_iff q).mp h
    exact Option.some_ne_none w (hw.symm.trans (free i))

theorem State.keepsSigns_softReset (s : State) : s.KeepsSigns s.softReset := by
  refine State.Resettles.keepsSigns (.inr ⟨_, rfl, fun k => k.same⟩) fun _ => State.heldBut_empty (fun i => ?_) fun p => ?_
  · rw [State.waferAt, State.slot_softReset]
  · rw [State.port_softReset]; rfl

theorem State.keepsSigns_restart (s : State) (st : Straps) : s.KeepsSigns (s.restart st) := by
  have dark : ∀ l, (Lamps.dark.get l).Law := fun l => by cases l <;> exact LampState.law_start none
  refine State.Resettles.keepsSigns (.inr ⟨_, rfl, fun _ => dark⟩) fun _ => State.heldBut_empty (fun i => ?_) fun p => ?_
  · rw [State.waferAt, State.slot_restart]
  · rw [State.port_restart, Port.start_eq]; rfl

/-! ### Every step -/

/-- Every command keeps HELD and the lamps true. -/
theorem exec_keepsSigns {c : Instr} (he : exec c s = .next t) : s.KeepsSigns t := by
  have self := State.KeepsSigns.refl s
  -- the next state of an arm that cannot stop, and of one whose cells exist
  have next : ∀ {u : State}, s.KeepsSigns u →
      Host.Outcome.next u = (Host.Outcome.next t : Host.Outcome State Fault Refusal) → s.KeepsSigns t :=
    fun hu e => Host.Outcome.next.inj e ▸ hu
  have guarded : ∀ {u : State}, s.KeepsSigns u → s.guardCells u = .next t → s.KeepsSigns t := fun hu e =>
    (State.guardCells_next e).2 ▸ hu
  -- a command that answers from the state and leaves it alone
  have reads : ∀ {code : Byte} {run : State → List Byte → Answer}, (∀ u bs, (run u bs).1 = u) →
      s.KeepsSigns (s.takeHost code run) := fun hr => .takeHost s _ fun u bs => by rw [hr]; exact .refl u
  cases c with
  | headFrameReceived p cs => exact next (.foldl (fun u c => (State.KeepsSigns.refl u).headChar p c) cs s) he
  | shortBreak p => exact next (self.shortBreak p) he
  | longBreak p => exact next (self.longBreak p) he
  | hostFrameReceived cs => exact next self.aside he
  | hostShortBreak => exact next self.aside he
  | announce p => exact next (s.keepsSigns_takeAnnounce p) he
  | touch p => exact next (.takeHead s p _ fun u bs => u.keepsSigns_touch p bs) he
  | site p => exact next (.takeHead s p _ fun u bs => u.keepsSigns_site p bs) he
  | lift p => exact guarded (.takeHead s p _ fun u bs => u.keepsSigns_lift p bs) he
  | unload p => exact next (.takeHead s p _ fun u bs => u.keepsSigns_unload p bs) he
  | beat p => exact next (.takeHead s p _ fun u bs => u.keepsSigns_beat p bs) he
  | nonHeadFrame p => exact next (s.keepsSigns_nonHeadFrame p) he
  | silenceExpiry p => exact next (s.keepsSigns_silenceExpiry p) he
  | headFrameSend p r =>
    exact next (self.withPort p (fun q : Port => ({ q with rdyIn := r } : Port).beginSend) (Port.beginSend_signs _)) he
  | hostReplySend e => exact next self.aside he
  | pageDone stored => exact next (s.keepsSigns_pageDone stored) he
  | lampPhaseExpiry l => exact next (s.keepsSigns_lampPhaseExpiry l) he
  | powerUp st => exact next (s.keepsSigns_restart st) he
  | pinReset st => exact next (s.keepsSigns_restart st) he
  | queryPart => exact next (reads fun u bs => by unfold runQueryPart; split <;> rfl) he
  | status =>
    refine next (.takeHost s _ fun u bs => ?_) he
    unfold runStatus
    split
    · exact .refl u
    · exact (State.KeepsSigns.refl u).aside
  | headSet => exact next (.takeHost s _ State.keepsSigns_runHeadSet) he
  | headStatus => exact next (.takeHost s _ State.keepsSigns_runHeadStatus) he
  | headDrop => exact next (.takeHost s _ State.keepsSigns_runHeadDrop) he
  | waferOpen => exact next (.takeHost s _ State.keepsSigns_runWaferOpen) he
  | waferClose => exact guarded (.takeHost s _ State.keepsSigns_runWaferClose) he
  | waferAbandon => exact guarded (.takeHost s _ State.keepsSigns_runWaferAbandon) he
  | waferResume => exact next (.takeHost s _ State.keepsSigns_runWaferResume) he
  | waferDiscard => exact next (.takeHost s _ State.keepsSigns_runWaferDiscard) he
  | waferRead => exact next (reads runWaferRead_fst) he
  | mapRead => exact guarded (reads runMapRead_fst) he
  | alarmsRead => exact next (reads runAlarmsRead_fst) he
  | limitsStage => exact next (.takeHost s _ State.keepsSigns_runLimitsStage) he
  | limitsRead => exact next (reads runLimitsRead_fst) he
  | holdRelease => exact next (.takeHost s _ State.keepsSigns_runHoldRelease) he
  | waferBins => exact next (reads runWaferBins_fst) he
  | binsSet => exact next (.takeHost s _ State.keepsSigns_runBinsSet) he
  | binsRead => exact next (reads fun u bs => by unfold runBinsRead; split <;> rfl) he
  | lampSet => exact next (.takeHost s _ State.keepsSigns_runLampSet) he
  | alertSet => exact next (.takeHost s _ State.keepsSigns_runAlertSet) he
  | lotRead =>
    exact next (.takeHost s _ fun u bs => State.withLot_keeps (P := u.KeepsSigns) (.refl u) fun _ _ _ => .refl u) he
  | lotEnd => exact next (.takeHost s _ State.keepsSigns_runLotEnd) he
  | noticeFetch => exact next (.takeHost s _ State.keepsSigns_runNoticeFetch) he
  | pageRead => exact next (reads runPageRead_fst) he
  | pageWrite => exact next (.takeHost s _ State.keepsSigns_runPageWrite) he
  | pageErase => exact next (.takeHost s _ State.keepsSigns_runPageErase) he
  | partReset =>
    refine next (.takeHost s _ fun u bs => ?_) he
    unfold runPartReset
    split
    · exact .refl u
    · exact u.keepsSigns_softReset
  | unknownKind =>
    refine next ?_ he
    unfold State.unknownKind
    split
    · split
      · exact self
      · exact self.aside
    · exact self
  | framingError p c => exact next (self.headChar p c) he
  | breakEnd p => exact next (self.withPort p _) he
  | hostFramingError c => exact next self.aside he
  | hostBreakEnd => exact next self.aside he
  | frameFinished p r => exact next (self.withPort p _ (Port.finishSend_signs _ r)) he

/-- Every step keeps HELD and the lamps true. -/
theorem step_keepsSigns (he : step s = .next t) : s.KeepsSigns t := by
  unfold step at he
  split at he
  · exact Host.Outcome.next.inj he ▸ s.keepsSigns_tick
  · exact (State.KeepsSigns.refl s).aside.trans (exec_keepsSigns he)

end

/-- Settles O8: every change of a record or of a binding is followed by a judgement of the ports that see it, and nothing
else that a command does is seen by HELD. -/
theorem stepsKeepTheHeldLaw : Obligations.StepsKeepTheHeldLaw := fun s t held he =>
  t.heldLaw_iff.mpr ((step_keepsSigns he).held (s.heldLaw_iff.mp held))

/-- Settles O15: whatever the conditions of the lamps read is either left as it was, or the lamps are derived after it. -/
theorem stepsKeepTheLampLaw : Obligations.StepsKeepTheLampLaw := fun _ _ sound he => (step_keepsSigns he).lamps sound.lamp

end Sys2Proof.Machine
end

section
/-! PROOFS. Time on an empty queue, the rows of Table 6-3, what follows a verdict, and what follows a judgement of HELD
(O2, O33, O34, O35). -/
namespace Sys2Proof.Machine

theorem step_empty {s : State} (empty : s.pending = []) : step s = .next s.tick := by
  unfold step
  split
  · rfl
  · next waiting => cases empty.symm.trans waiting

/-- Settles O2: with no command waiting, a step is `State.tick`. -/
theorem emptyQueueLetsAMillisecondPass : Obligations.EmptyQueueLetsAMillisecondPass := fun _ empty => step_empty empty

/-! ### The alarm record (R112 to R117, Table 6-3) -/

/-- A record that is to be PENDING, by its debounce count (R112). -/
theorem settleRaise_eq (rd : Nat) (l : Level) (n : Nat) : settleRaise rd l n =
    if rd ≤ n then ((⟨.raised, some l, false, 0⟩ : Alarm), AlarmEvent.raised l) else (⟨.pending, some l, false, n⟩, .none) := by
  cases l <;> rfl

/-- A record that is to be CLEARING, by its debounce count; at HOLD it is acknowledged (R114, R115). -/
theorem settleClear_eq (cd : Nat) (l : Level) (n : Nat) : settleClear cd l n =
    if cd ≤ n then ((⟨.clear, none, false, 0⟩ : Alarm), AlarmEvent.cleared l)
    else (⟨.clearing, some l, decide (l = .hold), n⟩, .none) := by
  cases l <;> rfl

/-- A record RAISED at HOLD without acknowledgement stays as it is (R114). -/
theorem alarmStep_unacknowledged (rd cd n : Nat) (v : Verdict) :
    alarmStep rd cd ⟨.raised, some .hold, false, n⟩ v = (⟨.raised, some .hold, false, n⟩, .none) := by
  cases v <;> rfl

/-- A CLEARING record within its limits counts on toward the clear debounce (R115). -/
theorem alarmStep_clearing_within (rd cd n : Nat) (l : Level) (acked : Bool) :
    alarmStep rd cd ⟨.clearing, some l, acked, n⟩ .within = settleClear cd l (n + 1) := by
  cases l <;> rfl

/-- Settles O33: state by state of the record, with the two debounce counts as `settleRaise` and `settleClear` judge
them. -/
theorem recordsFollowTable63 : Obligations.RecordsFollowTable63 := by
  intro rd cd n l acked v pending clearing clear
  refine ⟨⟨rfl, settleRaise_eq rd .warn 1, settleRaise_eq rd .hold 1⟩,
    ⟨rfl, settleRaise_eq rd .warn (n + 1), settleRaise_eq rd .hold (n + 1)⟩, ⟨settleClear_eq cd .warn 1, rfl, rfl⟩,
    alarmStep_unacknowledged rd cd n v, ⟨settleClear_eq cd .hold 1, rfl, rfl⟩, ?_, ⟨rfl, rfl⟩, ⟨rfl, rfl⟩⟩
  rw [alarmStep_clearing_within, settleClear_eq]

/-- The raise debounce of RUN is 1 in every profile (R116). -/
theorem raiseDebounceOf_eq (prof : Profile) (src : Source) :
    raiseDebounceOf prof src = if src.val = 1 then 1 else prof.raiseDebounce :=
  if_congr Fin.ext_iff rfl rfl

/-- Settles O34: the verdict's record in place, then the effects by what became of it. -/
theorem alarmChangesAreReported : Obligations.AlarmChangesAreReported := by
  intro s i w p src v hw hp
  extract_lets r h t counted u
  have verdict : State.giveVerdict i s (src, v) = (t.alarmEffects i (some p) h src r.2).settleLamps := by
    unfold State.giveVerdict
    rw [hw]
    dsimp only
    rw [hp, raiseDebounceOf_eq]
    rfl
  have effects : t.alarmEffects i (some p) h src r.2 = u := by
    unfold u
    cases r.2 with
    | none => rfl
    | raised l => cases l <;> rfl
    | escalated => rfl
    | cleared l => rfl
  rw [verdict, effects]

/-! ### HELD (R121 to R124, R149) -/

theorem Alarm.holds_iff (a : Alarm) : a.holds = true ↔ a.state = .raised ∧ a.level = some .hold ∧ a.acked = false := by
  simp [Alarm.holds, and_assoc]

theorem Wafer.boundTo_iff (w : Wafer) (p : PortId) : w.boundTo p = true ↔ w.state.isBound = true ∧ w.boundPort = some p := by
  simp [Wafer.boundTo]

/-- The first record in source order that holds the head (R122). -/
theorem Wafer.firstHold_eq {w : Wafer} {src : Source} (hold : (tabGet w.alarms src).holds = true)
    (first : ∀ k < src, (tabGet w.alarms k).holds = false) : w.firstHold = src := by
  have found : (sources.find? fun k => (tabGet w.alarms k).holds) = some src := by
    have rising : sources.Pairwise (· < ·) := by decide
    have mem : src ∈ sources := by rw [sources_eq]; exact List.mem_finRange src
    cases hf : sources.find? fun k => (tabGet w.alarms k).holds with
    | none => exact absurd hold (List.find?_eq_none.mp hf src mem)
    | some k =>
      rcases find?_first rising hf mem hold with e | before
      · rw [e]
      · cases (first k before).symm.trans (List.find?_some (p := fun k => (tabGet w.alarms k).holds) hf)
  rw [Wafer.firstHold, found, Option.getD_some]

theorem State.firstHoldOf_eq {s : State} {h : Byte} {i : SlotId} {w : Wafer} (hr : s.resolve h = some i)
    (hw : s.waferAt i = some w) : s.firstHoldOf h = w.firstHold := by
  rw [State.firstHoldOf, hr, Option.bind_some, hw]

/-- A port HELD by its records (R121). -/
theorem State.heldBy_iff_records (s : State) (p : PortId) : s.heldBy p = true ↔
    ∃ i w src, s.waferAt i = some w ∧ w.state.isBound = true ∧ w.boundPort = some p ∧
      (tabGet w.alarms src).state = .raised ∧ (tabGet w.alarms src).level = some .hold ∧ (tabGet w.alarms src).acked = false := by
  rw [State.heldBy_iff]
  refine exists_congr fun i => exists_congr fun w => ?_
  rw [Wafer.pins, Bool.and_eq_true, Wafer.boundTo_iff, Wafer.holds_iff]
  constructor
  · rintro ⟨hw, ⟨bound, port⟩, src, hold⟩
    exact ⟨src, hw, bound, port, (Alarm.holds_iff _).mp hold⟩
  · rintro ⟨src, hw, bound, port, hold⟩
    exact ⟨hw, ⟨bound, port⟩, src, (Alarm.holds_iff _).mpr hold⟩

/-- The HOLD or PROCEED frame, which takes an earlier one out, while the session is UP; then the HOLD line (R122 to R124,
R149 rule 1). -/
theorem State.changeHeld_eq (s : State) (p : PortId) {f : HeadOut} (v : Bool)
    (hf : ∀ q, joinOutbound q f = q.filter (fun g => !g.isHoldFrame) ++ [f]) :
    (s.queueOutIfUp p f).withPort p (fun q => { q with held := v }) = s.withPort p fun q => { q with
      held := v
      outbound := if q.session = .up then q.outbound.filter (fun g => !g.isHoldFrame) ++ [f] else q.outbound } := by
  unfold State.queueOutIfUp
  split
  · next up =>
    rw [State.queueOut, State.withPort_withPort]
    refine s.withPort_congr p ?_
    rw [if_pos up, ← hf]
    rfl
  · next down =>
    refine s.withPort_congr p ?_
    rw [if_neg down]

/-- Settles O35: the judgement by whether HELD agrees with the records, and its change by `changeHeld_eq`. -/
theorem heldChangesAreReported : Obligations.HeldChangesAreReported := by
  refine ⟨Alarm.holds_iff, fun w => ⟨w.holds_iff, w.boundTo_iff⟩, WaferState.isBound_iff,
    fun s h i w src hr hw hold first => (State.firstHoldOf_eq hr hw).trans (Wafer.firstHold_eq hold first),
    State.heldBy_iff_records, fun s p h src => ?_⟩
  intro waiting
  refine ⟨fun same o => if_pos same, fun held off => ?_, fun i w hr hw hold first => ?_, fun free on o => ?_⟩
  · rw [State.judgeHeld, if_neg (by rw [held, off]; exact Bool.noConfusion), if_pos held, State.holdPort,
      State.changeHeld_eq s p true fun _ => rfl]
    rfl
  · unfold State.judgeHeld
    rw [State.firstHoldOf_eq hr hw, Wafer.firstHold_eq hold first]
    rfl
  · rw [State.judgeHeld, if_neg (by rw [free, on]; exact Bool.noConfusion), if_neg (by rw [free]; exact Bool.noConfusion),
      State.freePort, State.changeHeld_eq s p false fun _ => rfl]

end Sys2Proof.Machine
end

section
/-! PROOFS. What the lamps show, how they blink, and the writes of the tables (O41, O58). -/
namespace Sys2Proof.Machine

/-! ### The five conditions (R126, Table 6-4) -/

theorem State.someWafer_iff (s : State) (f : Wafer → Bool) :
    s.someWafer f = true ↔ ∃ i, (s.waferAt i).any f = true := tabList_any _ _

theorem Session.isLost_iff (x : Session) : x.isLost = true ↔ ∃ cause, x = .lost cause := by
  cases x <;> simp [Session.isLost]

theorem LossCause.mem_all (cause : LossCause) : cause ∈ [LossCause.silence, .brk, .restart, .dropped, .disabled] := by
  cases cause <;> decide

/-- The record counts toward the WARN lamp (Table 6-4). -/
theorem Alarm.warns_iff (a : Alarm) : a.warns = true ↔ (a.state = .raised ∨ a.state = .clearing) ∧
    (a.level = some .warn ∨ a.level = some .hold ∧ a.acked = true) := by
  simp [Alarm.warns]

theorem Wafer.warns_iff (w : Wafer) : w.warns = true ↔ ∃ src, (tabGet w.alarms src).warns = true := tabList_any _ _

/-- Some head is HELD. -/
def State.HeldActive (s : State) : Prop := ∃ p, (s.port p).held = true

/-- Some bound wafer has a record that warns. -/
def State.WarnActive (s : State) : Prop := ∃ i w src, s.waferAt i = some w ∧ w.state.isBound = true ∧
  w.boundPort.isSome = true ∧ ((tabGet w.alarms src).state = .raised ∨ (tabGet w.alarms src).state = .clearing) ∧
  ((tabGet w.alarms src).level = some .warn ∨ (tabGet w.alarms src).level = some .hold ∧ (tabGet w.alarms src).acked = true)

/-- Some head is lost. -/
def State.LostActive (s : State) : Prop := ∃ p cause, (s.port p).session = .lost cause

/-- Some wafer is ACTIVE. -/
def State.ProbingActive (s : State) : Prop := ∃ i w, s.waferAt i = some w ∧ w.state = .active

/-- Some wafer is bound. -/
def State.SomeBound (s : State) : Prop := ∃ i w, s.waferAt i = some w ∧ w.state.isBound = true ∧ w.boundPort.isSome = true

section
variable (s : State)

theorem State.held_iff : (tabList s.ports).any (·.held) = true ↔ s.HeldActive := tabList_any _ _

theorem State.warn_iff : s.someWafer (fun w => w.state.isBound && w.boundPort.isSome && w.warns) = true ↔ s.WarnActive := by
  rw [State.someWafer_iff]
  refine exists_congr fun i => ?_
  rw [Option.any_eq_true]
  refine exists_congr fun w => ?_
  simp only [Bool.and_eq_true, Wafer.warns_iff, Alarm.warns_iff, exists_and_left, and_assoc]

theorem State.lost_iff : (tabList s.ports).any (·.session.isLost) = true ↔ s.LostActive := by
  rw [tabList_any]
  exact exists_congr fun p => Session.isLost_iff _

theorem State.probing_iff : s.someWafer (fun w => w.state == .active) = true ↔ s.ProbingActive := by
  rw [State.someWafer_iff]
  refine exists_congr fun i => ?_
  simp only [Option.any_eq_true, beq_iff_eq]

theorem State.bound_iff : s.someWafer (fun w => w.state.isBound && w.boundPort.isSome) = true ↔ s.SomeBound := by
  rw [State.someWafer_iff]
  refine exists_congr fun i => ?_
  simp only [Option.any_eq_true, Bool.and_eq_true]

end

/-- The first of the conditions, by rank, that is active and assigned to the lamp (R127). -/
theorem State.lampPattern_eq (s : State) (l : Lamp) {held warn lost probing idle : Bool} (hh : held = true ↔ s.HeldActive)
    (hw : warn = true ↔ s.WarnActive) (hl : lost = true ↔ s.LostActive) (hp : probing = true ↔ s.ProbingActive)
    (hi : idle = true ↔ ¬s.SomeBound) : s.lampPattern l =
    (([(held, s.lampTable.hold), (warn, s.lampTable.warn), (lost, s.lampTable.lost), (probing, s.lampTable.probing),
      (idle, s.lampTable.idle)].filter fun c => c.1 && c.2.lamp == lampChoice l).head?).map fun c => c.2.pattern := by
  have bound : idle = !s.someWafer (fun w => w.state.isBound && w.boundPort.isSome) := by
    rw [Bool.eq_iff_iff, hi, ← State.bound_iff, Bool.not_eq_true, Bool.not_eq_true']
  rw [Bool.eq_iff_iff.mpr (hh.trans s.held_iff.symm), Bool.eq_iff_iff.mpr (hw.trans s.warn_iff.symm),
    Bool.eq_iff_iff.mpr (hl.trans s.lost_iff.symm), Bool.eq_iff_iff.mpr (hp.trans s.probing_iff.symm), bound,
    List.head?_filter, State.lampPattern, State.conditions_eq]

theorem State.idle_iff (s : State) :
    (!s.someWafer fun w => w.state.isBound && w.boundPort.isSome) = true ↔ ¬s.SomeBound := by
  rw [← State.bound_iff, Bool.not_eq_true, Bool.not_eq_true']

/-- What the default table makes of the conditions (Table 6-5). -/
theorem defaultTable_shows : ∀ held warn lost probing idle : Bool, ∀ l : Lamp,
    (([(held, (⟨.red, .steady⟩ : LampEntry)), (warn, ⟨.amber, .steady⟩), (lost, ⟨.amber, .blinkOne⟩),
      (probing, ⟨.green, .steady⟩), (idle, ⟨.green, .blinkQuarter⟩)].filter
        fun c => c.1 && c.2.lamp == lampChoice l).head?).map (fun c => c.2.pattern) =
      match l with
      | .red => if held then some .steady else none
      | .amber => if warn then some .steady else if lost then some .blinkOne else none
      | .green => if probing then some .steady else if idle then some .blinkQuarter else none := by
  intro held warn lost probing idle l
  cases l
  · revert held warn lost probing idle; decide
  · revert held warn lost probing idle; decide
  · revert held warn lost probing idle; decide

theorem State.lampPattern_default (s : State) (table : s.lampTable =
      ⟨⟨.red, .steady⟩, ⟨.amber, .steady⟩, ⟨.amber, .blinkOne⟩, ⟨.green, .steady⟩, ⟨.green, .blinkQuarter⟩⟩) :
    s.lampPattern .red = (if (tabList s.ports).any (·.held) then some .steady else none) ∧
    s.lampPattern .amber =
      (if s.someWafer (fun w => w.state.isBound && w.boundPort.isSome && w.warns) then some .steady
      else if (tabList s.ports).any (·.session.isLost) then some .blinkOne else none) ∧
    s.lampPattern .green =
      (if s.someWafer (fun w => w.state == .active) then some .steady
      else if !s.someWafer (fun w => w.state.isBound && w.boundPort.isSome) then some .blinkQuarter else none) := by
  have shows := fun l => s.lampPattern_eq l s.held_iff s.warn_iff s.lost_iff s.probing_iff s.idle_iff
  rw [table] at shows
  exact ⟨(shows .red).trans (defaultTable_shows _ _ _ _ _ .red), (shows .amber).trans (defaultTable_shows _ _ _ _ _ .amber),
    (shows .green).trans (defaultTable_shows _ _ _ _ _ .green)⟩

/-! ### Blinking (R128) -/

theorem LampState.show_eq (l : LampState) (x : Option Pattern) :
    l.show x = if l.shown = x then l else ⟨x, x.isSome, (x.map Pattern.halfMs).getD 0⟩ := by
  rw [LampState.show, LampState.start_eq]

/-- A half with time left has no expiry (log 3). -/
theorem LampState.expire_running {l : LampState} (time : l.timer ≠ 0) : l.expire = l := by
  unfold LampState.expire
  split
  · rfl
  · rfl
  · exact if_neg time

/-- Settles O41: the conditions by what they say of the state, the expiry by what the lamp shows, and the default table
by which conditions are active. -/
theorem lampsShowTheirConditions : Obligations.LampsShowTheirConditions := by
  refine ⟨fun s => rfl, fun pat => by cases pat <;> rfl, fun s l => ?_, fun s l => ?_, fun s l => ?_, fun s table => ?_⟩
  · refine s.lampPattern_eq l decide_eq_true_iff (decide_eq_true_iff.trans ?_) (decide_eq_true_iff.trans ?_)
      (decide_eq_true_iff.trans ?_) (decide_eq_true_iff.trans (not_congr ?_))
    · rw [← s.warn_iff, s.someWafer_iff]
      refine exists_congr fun i => ?_
      cases s.waferAt i with
      | none => simp
      | some w =>
        rw [Option.any_some, Bool.and_eq_true, Wafer.warns_iff]
        simp only [Option.any_some, Bool.and_eq_true, Alarm.warns, and_assoc, exists_and_left]
    · exact exists_congr fun p => exists_congr fun cause => and_iff_right cause.mem_all
    · rw [← s.probing_iff, s.someWafer_iff]
    · rw [← s.bound_iff, s.someWafer_iff]
  · refine congrArg (fun f => Host.Outcome.next { s with lamps := s.lamps.modify l f }) (funext fun st => ?_)
    by_cases time : st.timer ≠ 0
    · rw [if_pos time, LampState.expire_running time]
    · rw [if_neg time]
      obtain ⟨shown, lit, timer⟩ := st
      obtain rfl : timer = 0 := not_not.mp time
      cases shown with
      | none => rfl
      | some pat => cases pat <;> rfl
  · rw [State.settleLamps_get, LampState.show_eq]
  · intro held warn lost probing bound
    obtain ⟨red, amber, green⟩ := s.lampPattern_default table
    have off : ∀ {b : Bool} {P : Prop}, (b = true ↔ P) → ¬P → ¬b = true := fun h hp hb => hp (h.mp hb)
    refine ⟨fun h => red.trans (if_pos (s.held_iff.mpr h)), fun h => red.trans (if_neg (off s.held_iff h)),
      fun h => amber.trans (if_pos (s.warn_iff.mpr h)),
      fun hw hl => amber.trans ((if_neg (off s.warn_iff hw)).trans (if_pos (s.lost_iff.mpr hl))),
      fun hw hl => amber.trans ((if_neg (off s.warn_iff hw)).trans (if_neg (off s.lost_iff hl))),
      fun hp => green.trans (if_pos (s.probing_iff.mpr hp)),
      fun hp hb => green.trans ((if_neg (off s.probing_iff hp)).trans (if_pos (s.idle_iff.mpr hb))),
      fun hp hb => green.trans ((if_neg (off s.probing_iff hp)).trans (if_neg (off s.idle_iff (not_not.mpr hb))))⟩

/-! ### The table writes (R3, R129, R172) -/

/-- The codes of a class table are refused where one is above 2 or bin 0 is not UNUSED (R3). -/
theorem binCodesOk_eq_false_iff (bs : List Byte) :
    binCodesOk bs = false ↔ (∃ c ∈ bs, 2 < c.toNat) ∨ bs.getD 0 0 ≠ 0 := by
  simp only [binCodesOk, charAt, Bool.and_eq_false_iff, List.all_eq_false, decide_eq_true_eq, not_le, beq_eq_false_iff_ne]

/-- The class of a class code in range (Table 1-1). -/
theorem BinClass.ofCode_eq {n : Nat} (h : n ≤ 2) :
    (BinClass.ofCode n).getD .unused = if n = 0 then .unused else if n = 1 then .pass else .fail := by
  match n, h with
  | 0, _ => rfl
  | 1, _ => rfl
  | 2, _ => rfl

/-- The class table that accepted codes give (R3). -/
theorem readBins_eq {bs : List Byte} (long : bs.length = 64) (ok : ∀ c ∈ bs, c.toNat ≤ 2) : readBins bs =
    Vector.ofFn fun b => if bs.getD b.val 0 = 0 then .unused else if bs.getD b.val 0 = 1 then .pass else .fail := by
  refine congrArg Vector.ofFn (funext fun b => ?_)
  have inside : b.val < bs.length := b.isLt.trans_eq long.symm
  have code : bs.getD b.val 0 = bs[b.val] := List.getD_eq_getElem _ _ inside
  rw [read1, charAt, BinClass.ofCode_eq (by rw [code]; exact ok _ (List.getElem_mem inside))]
  exact if_congr (BitVec.toNat_inj (y := 0)) rfl (if_congr (BitVec.toNat_inj (y := 1)) rfl rfl)

theorem LampTable.chars_length (t : LampTable) : t.chars.length = 10 := rfl

theorem LampChoice.ofCode_none : ∀ {n : Nat}, 3 < n → LampChoice.ofCode n = Option.none
  | _ + 4, _ => rfl

theorem Pattern.ofCode_none : ∀ {n : Nat}, 5 < n → Pattern.ofCode n = none
  | _ + 6, _ => rfl

/-- A lamp table entry is absent where one of its codes is out of range (R129). -/
theorem readLampEntry_none {bs : List Byte} {i : Nat} (h : 3 < (bs.getD i 0).toNat ∨ 5 < (bs.getD (i + 1) 0).toNat) :
    readLampEntry bs i = none := by
  unfold readLampEntry
  rcases h with lamp | pattern
  · rw [read1, charAt, LampChoice.ofCode_none lamp]
  · rw [read1, read1, charAt, charAt, Pattern.ofCode_none pattern]
    cases LampChoice.ofCode (bs.getD i 0).toNat <;> rfl

/-- A lamp table is absent where one of its ten codes is out of range (R129). -/
theorem readLampTable_none {bs : List Byte}
    (h : ∃ i < 5, 3 < (bs.getD (2 * i) 0).toNat ∨ 5 < (bs.getD (2 * i + 1) 0).toNat) : readLampTable bs = none := by
  obtain ⟨i, small, code⟩ := h
  have absent := readLampEntry_none code
  rw [Option.eq_none_iff_forall_ne_some]
  intro t given
  unfold readLampTable at given
  split at given
  · next hold warn lost probing idle =>
    obtain rfl | rfl | rfl | rfl | rfl : i = 0 ∨ i = 1 ∨ i = 2 ∨ i = 3 ∨ i = 4 := by omega
    · exact absurd (hold.symm.trans absent) nofun
    · exact absurd (warn.symm.trans absent) nofun
    · exact absurd (lost.symm.trans absent) nofun
    · exact absurd (probing.symm.trans absent) nofun
    · exact absurd (idle.symm.trans absent) nofun
  · cases given

section
variable {s : State} {bs : List Byte}

/-- BINS_SET on a payload of its length (R3). -/
theorem runBinsSet_eq (long : bs.length = 64) : runBinsSet s bs =
    if (∃ c ∈ bs, 2 < c.toNat) ∨ bs.getD 0 0 ≠ 0 then (s, [2])
    else if ∃ i, ((s.waferAt i).any fun w => w.state.isBound) = true then (s, [5])
    else
      let classes : Vector BinClass 64 := Vector.ofFn fun b =>
        if bs.getD b.val 0 = 0 then .unused else if bs.getD b.val 0 = 1 then .pass else .fail
      ({ s with bins := classes }, [0]) := by
  rw [runBinsSet, if_neg (not_not.mpr long)]
  refine (if_congr (binCodesOk_eq_false_iff bs) rfl rfl).trans ?_
  split
  · rfl
  · next ok =>
    have inRange : ∀ c ∈ bs, c.toNat ≤ 2 := fun c hc => not_lt.mp fun high => ok (.inl ⟨c, hc, high⟩)
    rw [readBins_eq long inRange]
    exact if_congr (s.someWafer_iff _) rfl rfl

/-- LAMP_SET on a payload that is a lamp table (R129). -/
theorem runLampSet_chars (t : LampTable) : runLampSet s t.chars = ({ s with lampTable := t }.settleLamps, [0]) := by
  have table : readLampTable t.chars = some t := by rw [← List.append_nil t.chars, readLampTable_chars]
  rw [runLampSet, if_neg (not_not.mpr t.chars_length), table]
  rfl

/-- LAMP_SET on a code out of range (R129). -/
theorem runLampSet_refused (long : bs.length = 10)
    (h : ∃ i < 5, 3 < (bs.getD (2 * i) 0).toNat ∨ 5 < (bs.getD (2 * i + 1) 0).toNat) : runLampSet s bs = (s, [2]) := by
  rw [runLampSet, if_neg (not_not.mpr long), readLampTable_none h]
  rfl

/-- ALERT_SET on a payload of one code (R172). -/
theorem runAlertSet_eq (b : Byte) : runAlertSet s [b] =
    if 1 < b.toNat then (s, [2]) else ({ s with alertEnable := decide (b = 1) }, [0]) := by
  have enable : (b.toNat == 1) = decide (b = 1) := by
    rw [Bool.eq_iff_iff, beq_iff_eq, decide_eq_true_iff]
    exact BitVec.toNat_inj (y := 1)
  rw [runAlertSet, if_neg (not_not.mpr (List.length_singleton (a := b))), ← enable]
  rfl

end

/-- Settles O58: each command by what it does with a payload of its length, on the state that taking it leaves. -/
theorem tableWritesReplaceTheTable : Obligations.TableWritesReplaceTheTable := by
  refine ⟨refusesLength_of (fun _ _ => rfl) fun _ _ wrong => if_pos wrong,
    refusesLength_of (fun _ _ => rfl) fun _ _ wrong => if_pos wrong,
    refusesLength_of (fun _ _ => rfl) fun _ _ wrong => if_pos wrong,
    fun s bs rest finds long => congrArg Host.Outcome.next ?_, fun s t rest finds => congrArg Host.Outcome.next ?_,
    fun s bs rest finds long code => congrArg Host.Outcome.next (State.takeHost_answer finds (runLampSet_refused long code)),
    fun s b rest finds => congrArg Host.Outcome.next ?_⟩
  · rw [State.takeHost_finds finds, runBinsSet_eq long]
    split
    · rfl
    · by_cases bound : ∃ i, (((s.popHost rest).waferAt i).any fun w => w.state.isBound) = true
      · rw [if_pos bound]
        exact (if_pos bound).symm
      · rw [if_neg bound]
        exact (if_neg bound).symm
  · rw [State.takeHost_finds finds, runLampSet_chars]
    rfl
  · rw [State.takeHost_finds finds, runAlertSet_eq]
    split
    · rfl
    · rfl

end Sys2Proof.Machine
end

section
/-! PROOFS. The lot entries and the wafers that name them, and the changes that keep their counts in agreement: those that
no member sees, a member's end, a new member, and the end of an entry (R37, R131 to R138; for O10). -/
namespace Sys2Proof.Machine

/-! ### Bound members (R137) -/

/-- A bound member of a lot entry. -/
def Wafer.memberOf (w : Wafer) (l : LotId) : Bool := w.state.isBound && w.lotEntry == some l

theorem Wafer.memberOf_iff (w : Wafer) (l : LotId) : w.memberOf l = true ↔ w.state.isBound = true ∧ w.lotEntry = some l := by
  rw [Wafer.memberOf, Bool.and_eq_true_iff, beq_iff_eq]

/-- A slot's part in the number of bound members of a lot entry. -/
def State.memberAt (s : State) (l : LotId) (i : SlotId) : Nat := if (s.waferAt i).any (·.memberOf l) then 1 else 0

theorem length_filter_eq_sum {α : Type} (g : α → Bool) (xs : List α) :
    (xs.filter g).length = (xs.map fun x => if g x then 1 else 0).sum := by
  induction xs with
  | nil => rfl
  | cons x xs ih => cases hx : g x <;> simp [hx, ih, Nat.add_comm]

theorem State.boundMembers_sum (s : State) (l : LotId) : s.boundMembers l = ∑ i, s.memberAt l i := by
  rw [State.boundMembers_eq, length_filter_eq_sum, slotIds_eq, Fin.sum_univ_def]
  rfl

/-- The number of bound members as one slot changes. -/
theorem State.boundMembers_change {s t : State} (i : SlotId) (others : ∀ j, j ≠ i → t.waferAt j = s.waferAt j) (l : LotId) :
    t.boundMembers l + s.memberAt l i = s.boundMembers l + t.memberAt l i := by
  rw [State.boundMembers_sum, State.boundMembers_sum]
  refine sum_differ i fun j hj => ?_
  unfold State.memberAt
  rw [others j hj]

/-! ### The law of the lots -/

/-- The counts of a lot entry agree while so many of its members are bound (R131, R136). -/
structure Lot.Balanced (e : Lot) (bound : Nat) : Prop where
  count : e.opened = e.closed + e.abandoned + bound
  cap : e.opened ≤ countCap
  sum : e.tested < countCap → e.tested = (tabList e.bins).tail.sum

/-- A wafer names a lot entry in use that holds its lot id, or none while it is not bound (R131, R137). -/
structure State.Enrolled (s : State) (w : Wafer) : Prop where
  entry : w.state.isBound = true → w.lotEntry.isSome = true
  named : ∀ l, w.lotEntry = some l → ∃ e, tabGet s.lots l = some e ∧ e.lotText = w.lotText

/-- The law of the lots in parts. -/
structure State.Rosters (s : State) : Prop where
  balanced : ∀ l e, tabGet s.lots l = some e → e.Balanced (s.boundMembers l)
  distinct : ∀ k l d e, tabGet s.lots k = some d → tabGet s.lots l = some e → d.lotText = e.lotText → k = l
  enrolled : ∀ i w, s.waferAt i = some w → s.Enrolled w

theorem State.lotLaw_iff (s : State) : s.LotLaw ↔ s.Rosters := by
  constructor
  · rintro ⟨balanced, distinct, enrolled⟩
    refine ⟨fun l e he => ?_, fun k l d e hd he => distinct k l d hd e he, fun i w hw => ?_⟩
    · obtain ⟨count, cap, sum⟩ := balanced l e he
      exact ⟨count, cap, sum⟩
    · obtain ⟨entry, named⟩ := enrolled i w hw
      exact ⟨entry, named⟩
  · intro h
    refine ⟨fun l e he => ?_, fun k l d hd e he => h.distinct k l d e hd he, fun i w hw => ?_⟩
    · have balanced := h.balanced l e he
      exact ⟨balanced.count, balanced.cap, balanced.sum⟩
    · have enrolled := h.enrolled i w hw
      exact ⟨enrolled.entry, enrolled.named⟩

section
variable {s t : State} {i : SlotId} {v w : Wafer} {l : LotId}

/-! ### Changes of no lot id -/

/-- The lot ids that the entries hold stay. -/
def State.SameTexts (s t : State) : Prop := ∀ l, (tabGet t.lots l).map Lot.lotText = (tabGet s.lots l).map Lot.lotText

theorem State.SameTexts.back (h : s.SameTexts t) {e : Lot} (he : tabGet t.lots l = some e) :
    ∃ d, tabGet s.lots l = some d ∧ d.lotText = e.lotText := by
  have texts := h l
  rw [he] at texts
  exact Option.map_eq_some_iff.mp texts.symm

/-- A record changes in nothing that the law of the lots reads, but may stop being bound. -/
structure Wafer.Remains (v w : Wafer) : Prop where
  bound : v.state.isBound = true → w.state.isBound = true
  entry : v.lotEntry = w.lotEntry
  text : v.lotText = w.lotText

theorem State.Enrolled.carry (h : s.Enrolled w) (texts : s.SameTexts t) (remains : v.Remains w) : t.Enrolled v := by
  refine ⟨fun hv => by rw [remains.entry]; exact h.entry (remains.bound hv), fun l hl => ?_⟩
  obtain ⟨e, he, text⟩ := h.named l (remains.entry ▸ hl)
  have same := texts l
  rw [he] at same
  obtain ⟨d, hd, hde⟩ := Option.map_eq_some_iff.mp same
  exact ⟨d, hd, hde.trans (text.trans remains.text.symm)⟩

/-- The entries keep their lot ids and no wafer joins one: their counts are what is left to judge. -/
theorem State.Rosters.retain (h : s.Rosters) (texts : s.SameTexts t)
    (balanced : ∀ l e, tabGet t.lots l = some e → e.Balanced (t.boundMembers l))
    (wafers : ∀ i v, t.waferAt i = some v → ∃ w, s.waferAt i = some w ∧ v.Remains w) : t.Rosters := by
  refine ⟨balanced, fun k l d e hd he hde => ?_, fun i v hv => ?_⟩
  · obtain ⟨d', hd', textD⟩ := texts.back hd
    obtain ⟨e', he', textE⟩ := texts.back he
    exact h.distinct k l d' e' hd' he' (textD.trans (hde.trans textE.symm))
  · obtain ⟨w, hw, remains⟩ := wafers i v hv
    exact (h.enrolled i w hw).carry texts remains

/-- The entries stay, and so do their bound members. -/
theorem State.Rosters.back (h : s.Rosters) (lots : t.lots = s.lots) (members : ∀ l i, t.memberAt l i = s.memberAt l i)
    (wafers : ∀ i v, t.waferAt i = some v → ∃ w, s.waferAt i = some w ∧ v.Remains w) : t.Rosters := by
  refine h.retain (fun l => by rw [lots]) (fun l e he => ?_) wafers
  rw [State.boundMembers_sum, Finset.sum_congr rfl fun i _ => members l i, ← State.boundMembers_sum]
  exact h.balanced l e (lots ▸ he)

/-- What the law of the lots reads of a state. -/
def State.rolls (s : State) : Vector Slot 12 × Vector (Option Lot) 4 := (s.slots, s.lots)

theorem State.Rosters.same (h : s.Rosters) (e : t.rolls = s.rolls := by rfl) : t.Rosters := by
  obtain ⟨slots, lots⟩ := Prod.mk.inj e
  have wafer : ∀ i, t.waferAt i = s.waferAt i := fun i => congrArg (fun v => (tabGet v i).wafer) slots
  refine h.back lots (fun l i => ?_) fun i v hv => ⟨v, wafer i ▸ hv, id, rfl, rfl⟩
  unfold State.memberAt
  rw [wafer]

/-- What the law of the lots reads of a record. -/
def Wafer.membership (w : Wafer) : Bool × Option LotId × List Byte := (w.state.isBound, w.lotEntry, w.lotText)

theorem Wafer.membership_eq (h : v.membership = w.membership) :
    v.state.isBound = w.state.isBound ∧ v.lotEntry = w.lotEntry ∧ v.lotText = w.lotText := by
  simpa only [Wafer.membership, Prod.mk.injEq] using h

/-- A record changes, as `Updates` says, and its membership stays. -/
theorem State.Rosters.updates (h : s.Rosters) {f : Wafer → Wafer} (u : s.Updates t i f)
    (hf : ∀ w, s.waferAt i = some w → (f w).membership = w.membership) : t.Rosters := by
  refine h.back u.lots (fun l j => ?_) fun j v hv => ?_
  · unfold State.memberAt
    rw [u.wafer]
    split
    · next e =>
      rw [e]
      cases hw : s.waferAt i with
      | none => rfl
      | some w =>
        obtain ⟨bound, entry, -⟩ := Wafer.membership_eq (hf w hw)
        rw [Option.map_some, Option.any_some, Option.any_some, Wafer.memberOf, bound, entry, ← Wafer.memberOf]
    · rfl
  · rw [u.wafer] at hv
    split at hv
    · next e =>
      obtain ⟨w, hw, rfl⟩ := Option.map_eq_some_iff.mp hv
      obtain ⟨bound, entry, text⟩ := Wafer.membership_eq (hf w hw)
      exact ⟨w, e ▸ hw, fun hb => bound ▸ hb, entry, text⟩
    · exact ⟨v, hv, id, rfl, rfl⟩

theorem State.Rosters.withWafer (h : s.Rosters) (i : SlotId) {f : Wafer → Wafer}
    (hf : ∀ w, s.waferAt i = some w → (f w).membership = w.membership := by intro _ _; rfl) : (s.withWafer i f).Rosters :=
  h.updates (s.updates_withWafer i f) hf

/-- A wafer that is not bound is discarded (R36). -/
theorem State.Rosters.freeSlotAt (h : s.Rosters) (unbound : ∀ w, s.waferAt i = some w → w.state.isBound = false) :
    (s.freeSlotAt i).Rosters := by
  have wafer : ∀ j, (s.freeSlotAt i).waferAt j = if j = i then none else s.waferAt j := fun j => by
    rw [State.waferAt, State.freeSlotAt, tabGet_tabModify]
    split <;> rfl
  refine h.back rfl (fun l j => ?_) fun j v hv => ?_
  · unfold State.memberAt
    rw [wafer]
    split
    · next e =>
      rw [e]
      cases hw : s.waferAt i with
      | none => rfl
      | some w => rw [Option.any_some, Wafer.memberOf, unbound w hw]; rfl
    · rfl
  · rw [wafer] at hv
    split at hv
    · cases hv
    · exact ⟨v, hv, id, rfl, rfl⟩

/-! ### A member's end (R26, R34, R133, R135) -/

/-- A bound wafer stops being bound, and the entry it names counts its end. -/
theorem State.Rosters.leave (h : s.Rosters) (hw : s.waferAt i = some w) (bound : w.state.isBound = true)
    (wafers : ∀ j, t.waferAt j = if j = i then some v else s.waferAt j) (unbound : v.state.isBound = false)
    (entry : v.lotEntry = w.lotEntry) (text : v.lotText = w.lotText) {f : Lot → Lot}
    (lots : ∀ l, tabGet t.lots l = if w.lotEntry = some l then (tabGet s.lots l).map f else tabGet s.lots l)
    (texts : ∀ e, (f e).lotText = e.lotText) (counted : ∀ e n, e.Balanced (n + 1) → (f e).Balanced n) : t.Rosters := by
  have members : ∀ l, t.boundMembers l + (if w.lotEntry = some l then 1 else 0) = s.boundMembers l := fun l => by
    have change := State.boundMembers_change (s := s) (t := t) i (fun j hj => by rw [wafers, if_neg hj]) l
    have before : s.memberAt l i = if w.lotEntry = some l then 1 else 0 := by
      unfold State.memberAt
      rw [hw, Option.any_some]
      exact if_congr ((w.memberOf_iff l).trans (and_iff_right bound)) rfl rfl
    have after : t.memberAt l i = 0 := by
      unfold State.memberAt
      rw [wafers, if_pos rfl, Option.any_some, Wafer.memberOf, unbound]
      rfl
    rw [before, after] at change
    exact change
  refine h.retain (fun l => ?_) (fun l e he => ?_) fun j u hu => ?_
  · rw [lots]
    split
    · rw [Option.map_map]
      exact congrArg (Option.map · _) (funext texts)
    · rfl
  · have here := members l
    rw [lots] at he
    split at he
    · next hl =>
      obtain ⟨d, hd, rfl⟩ := Option.map_eq_some_iff.mp he
      rw [if_pos hl] at here
      exact counted d _ (here ▸ h.balanced l d hd)
    · next hl =>
      rw [if_neg hl, Nat.add_zero] at here
      exact here ▸ h.balanced l e he
  · rw [wafers] at hu
    split at hu
    · next e =>
      obtain rfl := Option.some.inj hu
      exact ⟨w, e ▸ hw, fun _ => bound, entry, text⟩
    · exact ⟨u, hu, id, rfl, rfl⟩

theorem bump_of_lt {n : Nat} (h : n < countCap) : bump n = n + 1 := min_eq_left h

theorem satAdd_of_lt {n k : Nat} (h : satAdd n k < countCap) : satAdd n k = n + k := by
  unfold satAdd at h ⊢
  omega

/-- Bin counters that are added without saturation. -/
theorem binSum_satAdd (P : Bin → Bool) (u v : Vector Nat 64) (h : binSum P u + binSum P v ≤ countCap) :
    binSum P (Vector.ofFn fun b : Bin => satAdd (tabGet u b) (tabGet v b)) = binSum P u + binSum P v := by
  have each : ∀ b : Bin, tabGet (Vector.ofFn fun b : Bin => satAdd (tabGet u b) (tabGet v b)) b =
      satAdd (tabGet u b) (tabGet v b) :=
    fun b => Vector.getElem_ofFn b.isLt
  unfold binSum
  rw [← Finset.sum_add_distrib]
  refine Finset.sum_congr rfl fun b _ => ?_
  cases hb : P b with
  | false => rfl
  | true =>
    have hu := le_binSum hb u
    have hv := le_binSum hb v
    rw [if_pos rfl, if_pos rfl, if_pos rfl, each]
    exact min_eq_left ((Nat.add_le_add hu hv).trans h)

/-- A lot entry after a closing wafer is rolled in and the floor of the wafer's active profile judged (R133, R134). -/
def Lot.rolledIn (e : Lot) (w : Wafer) : Lot :=
  { e.rollUp w with
    lowReported := if w.active.lotFloor ≠ 0 ∧ (e.rollUp w).tested ≠ 0 then
      decide (perMille (e.rollUp w).pass (e.rollUp w).tested < w.active.lotFloor) else e.lowReported }

/-- The entries after a roll-up: the one the wafer names, where there is one, is rolled in. -/
theorem State.lot_rollUp (s : State) (w : Wafer) (p : Option PortId) (x : Byte) (l : LotId) :
    tabGet (s.rollUp w p x).lots l =
      if w.lotEntry = some l then (tabGet s.lots l).map (·.rolledIn w) else tabGet s.lots l := by
  cases hk : w.lotEntry with
  | none => rw [if_neg nofun, State.rollUp, hk]
  | some k =>
    cases he : tabGet s.lots k with
    | none =>
      rw [State.rollUp, hk]
      dsimp only
      rw [he]
      dsimp only
      split
      · next e => rw [← Option.some.inj e, he]; rfl
      · rfl
    | some e =>
      have lots : (s.rollUp w p x).lots = tabSet s.lots k (some (e.rolledIn w)) := by
        rw [State.rollUp_eq hk he]
        dsimp only
        split
        · rw [State.notify_lots]; rfl
        · rfl
      rw [lots, tabGet_tabSet]
      by_cases hl : l = k
      · rw [if_pos hl, if_pos (congrArg some hl.symm), hl, he]; rfl
      · rw [if_neg hl, if_neg fun e => hl (Option.some.inj e).symm]

/-- The entries after a wafer's abandonment is counted (R135). -/
theorem State.lot_countAbandoned (s : State) (w : Wafer) (l : LotId) : tabGet (s.countAbandoned w).lots l =
    if w.lotEntry = some l then (tabGet s.lots l).map fun e => { e with abandoned := bump e.abandoned }
    else tabGet s.lots l := by
  unfold State.countAbandoned
  cases w.lotEntry with
  | none => exact (if_neg nofun).symm
  | some k =>
    dsimp only
    rw [tabGet_tabModify]
    by_cases hl : l = k
    · rw [if_pos hl, if_pos (congrArg some hl.symm), hl]
    · rw [if_neg hl, if_neg fun e => hl (Option.some.inj e).symm]

/-- Rolling in a closing member keeps an entry's counts in agreement (R133, R136). -/
theorem Lot.Balanced.rolledIn {e : Lot} {n : Nat} (h : e.Balanced (n + 1)) (k : s.Tallied w) :
    (e.rolledIn w).Balanced n := by
  have count := h.count
  have cap := h.cap
  refine ⟨?_, cap, fun below => ?_⟩
  · show e.opened = bump e.closed + e.abandoned + n
    rw [bump_of_lt (by omega)]
    omega
  · have below : satAdd e.tested w.tested < countCap := below
    have tested := satAdd_of_lt below
    have old := h.sum (by omega)
    have new := k.sum
    rw [tail_sum] at old new ⊢
    show satAdd e.tested w.tested = binSum _ (Vector.ofFn fun b : Bin => satAdd (tabGet e.bins b) (tabGet w.bins b))
    rw [binSum_satAdd _ _ _ (by omega), tested, old, new]

theorem Lot.Balanced.abandon {e : Lot} {n : Nat} (h : e.Balanced (n + 1)) :
    Lot.Balanced { e with abandoned := bump e.abandoned } n := by
  have count := h.count
  have cap := h.cap
  refine ⟨?_, cap, h.sum⟩
  show e.opened = e.closed + bump e.abandoned + n
  rw [bump_of_lt (by omega)]
  omega

/-- A bound wafer enters CLOSED. -/
theorem State.Rosters.enterClosed (h : s.Rosters) (books : s.Books)
    (bound : ∀ w, s.waferAt i = some w → w.state.isBound = true) (c : CloseCause) : (s.enterClosed i c).Rosters := by
  cases hw : s.waferAt i with
  | none =>
    unfold State.enterClosed
    rw [hw]
    exact h
  | some w =>
    refine h.leave (v := w.close c) (f := (·.rolledIn w)) hw (bound w hw) (fun j => ?_) rfl rfl rfl (fun l => ?_)
      (fun _ => rfl) fun e n balanced => balanced.rolledIn (books.tallied i w hw)
    · rw [State.waferAt_enterClosed, hw]; rfl
    · rw [State.enterClosed_eq hw, State.settleLamps_lots, (State.judgeBound_rest _ _ _ _).2.1, State.closing,
        State.lot_rollUp, State.notify_lots, (State.dropAssignAt_rest _ _ _).2.1]
      rfl

/-- A bound wafer enters ABANDONED. -/
theorem State.Rosters.enterAbandoned (h : s.Rosters) (bound : ∀ w, s.waferAt i = some w → w.state.isBound = true) :
    (s.enterAbandoned i).Rosters := by
  cases hw : s.waferAt i with
  | none =>
    unfold State.enterAbandoned
    rw [hw]
    exact h
  | some w =>
    refine h.leave (v := w.abandon) (f := fun e => { e with abandoned := bump e.abandoned }) hw (bound w hw) (fun j => ?_)
      rfl rfl rfl (fun l => ?_) (fun _ => rfl) fun e n balanced => balanced.abandon
    · rw [State.waferAt_enterAbandoned, hw]; rfl
    · rw [State.enterAbandoned_eq hw, State.settleLamps_lots, (State.judgeBound_rest _ _ _ _).2.1, State.abandoning,
        State.lot_countAbandoned, (State.dropAssignAt_rest _ _ _).2.1]
      rfl

/-! ### A new member (R132) -/

/-- The entry that a new wafer joins: the one that holds its lot id, below its top, or a free one where none does. -/
theorem State.lotFor_some {lot : List Byte} (h : s.lotFor lot = some l) :
    (∃ e, tabGet s.lots l = some e ∧ e.lotText = lot ∧ e.opened ≠ countCap) ∨
    (tabGet s.lots l = none ∧ ∀ k e, tabGet s.lots k = some e → e.lotText ≠ lot) := by
  cases hk : s.lotHolding lot with
  | some k =>
    obtain ⟨e, he, text⟩ := State.lotHolding_some hk
    rw [State.lotFor_of_holding hk he] at h
    split at h
    · cases h
    · next room =>
      obtain rfl := Option.some.inj h
      exact .inl ⟨e, he, text, room⟩
  | none =>
    rw [State.lotFor_of_none hk] at h
    have free : (tabGet s.lots l).isNone = true := List.find?_some (p := fun l => (tabGet s.lots l).isNone) h
    refine .inr ⟨Option.isNone_iff_eq_none.mp free, fun k e he text => ?_⟩
    have absent := List.find?_eq_none.mp hk k (mem_lotIds k)
    rw [he, Option.any_some, beq_iff_eq] at absent
    exact absent text

/-- The entry a new wafer joins, as it is before the wafer is counted. -/
theorem State.Rosters.joined (h : s.Rosters) {lot : List Byte} (hl : s.lotFor lot = some l) {d : Lot}
    (hd : (tabGet s.lots l).getD (Lot.fresh lot) = d) : d.Balanced (s.boundMembers l) ∧ d.opened < countCap ∧
      d.lotText = lot ∧ ∀ k e, tabGet s.lots k = some e → e.lotText = lot → k = l := by
  rcases State.lotFor_some hl with ⟨e, he, text, room⟩ | ⟨free, other⟩
  · rw [he, Option.getD_some] at hd
    subst hd
    have balanced := h.balanced l e he
    exact ⟨balanced, Nat.lt_of_le_of_ne balanced.cap room, text,
      fun k d hk hdt => h.distinct k l d e hk he (hdt.trans text.symm)⟩
  · rw [free, Option.getD_none] at hd
    subst hd
    have nobody : s.boundMembers l = 0 := by
      rw [State.boundMembers_sum]
      refine Finset.sum_eq_zero fun i _ => if_neg fun any => ?_
      obtain ⟨w, hw, member⟩ := (Option.any_eq_true _ _).mp any
      obtain ⟨e, he, -⟩ := (h.enrolled i w hw).named l ((w.memberOf_iff l).mp member).2
      exact Option.some_ne_none e (he.symm.trans free)
    refine ⟨?_, Nat.zero_lt_succ 16777214, rfl, fun k e he text => (other k e he text).elim⟩
    rw [nobody]
    refine ⟨rfl, Nat.zero_le _, fun _ => ?_⟩
    rw [tail_sum]
    exact (Finset.sum_eq_zero fun b _ => by rw [Lot.fresh, tabGet_replicate, ite_self]).symm

/-- A bound wafer fills a FREE slot and joins the entry of its lot id. -/
theorem State.Rosters.enroll (h : s.Rosters) (free : s.waferAt i = none) (hl : s.lotFor w.lotText = some l)
    (bound : w.state.isBound = true) (entry : w.lotEntry = some l) : ((s.joinLot l w.lotText).fillSlot i w).Rosters := by
  generalize hd : (tabGet s.lots l).getD (Lot.fresh w.lotText) = d
  obtain ⟨balanced, room, text, only⟩ := h.joined hl hd
  have opened := bump_of_lt room
  generalize ht : (s.joinLot l w.lotText).fillSlot i w = t
  have wafers : ∀ j, t.waferAt j = if j = i then some w else s.waferAt j := fun j => by
    rw [← ht, State.waferAt_fillSlot]
    rfl
  have lots : ∀ k, tabGet t.lots k = if k = l then some { d with opened := bump d.opened } else tabGet s.lots k :=
    fun k => by
      rw [← ht, State.fillSlot_lots, State.joinLot, hd]
      exact tabGet_tabSet _ _ _ _
  have members : ∀ k, t.boundMembers k = s.boundMembers k + if k = l then 1 else 0 := fun k => by
    have change := State.boundMembers_change (s := s) (t := t) i (fun j hj => by rw [wafers, if_neg hj]) k
    have before : s.memberAt k i = 0 := by
      unfold State.memberAt
      rw [free]
      rfl
    have after : t.memberAt k i = if k = l then 1 else 0 := by
      unfold State.memberAt
      rw [wafers, if_pos rfl, Option.any_some]
      refine if_congr ((w.memberOf_iff k).trans ((and_iff_right bound).trans ?_)) rfl rfl
      rw [entry, Option.some.injEq]
      exact eq_comm
    rw [before, after] at change
    exact change
  -- the lot id that each entry holds
  have texts : ∀ k e, tabGet t.lots k = some e → k = l ∧ e.lotText = w.lotText ∨ k ≠ l ∧ tabGet s.lots k = some e :=
    fun k e he => by
      rw [lots] at he
      split at he
      · next hk => exact .inl ⟨hk, Option.some.inj he ▸ text⟩
      · next hk => exact .inr ⟨hk, he⟩
  refine ⟨fun k e he => ?_, fun j k a b ha hb hab => ?_, fun j v hv => ?_⟩
  · rw [members]
    rw [lots] at he
    split at he
    · next hk =>
      obtain rfl := Option.some.inj he
      have count := balanced.count
      have top := balanced.cap
      rw [hk, if_pos rfl]
      exact ⟨by show bump d.opened = d.closed + d.abandoned + _; omega, by show bump d.opened ≤ _; omega, balanced.sum⟩
    · next hk => rw [if_neg hk]; exact h.balanced k e he
  · rcases texts j a ha with ⟨hj, ta⟩ | ⟨hj, sa⟩ <;> rcases texts k b hb with ⟨hk, tb⟩ | ⟨hk, sb⟩
    · exact hj.trans hk.symm
    · exact (hk (only k b sb (hab.symm.trans ta))).elim
    · exact (hj (only j a sa (hab.trans tb))).elim
    · exact h.distinct j k a b sa sb hab
  · rw [wafers] at hv
    split at hv
    · obtain rfl := Option.some.inj hv
      refine ⟨fun _ => by rw [entry]; rfl, fun k hk => ?_⟩
      obtain rfl : l = k := Option.some.inj (entry.symm.trans hk)
      exact ⟨_, (lots l).trans (if_pos rfl), text⟩
    · have old := h.enrolled j v hv
      refine ⟨old.entry, fun k hk => ?_⟩
      obtain ⟨e, he, hev⟩ := old.named k hk
      by_cases hkl : k = l
      · refine ⟨_, (lots k).trans (if_pos hkl), ?_⟩
        rw [hkl] at he
        rw [he, Option.getD_some] at hd
        exact (congrArg Lot.lotText hd.symm).trans hev
      · exact ⟨e, ((lots k).trans (if_neg hkl)).trans he, hev⟩

/-! ### The end of an entry (R37, R138) -/

theorem State.waferAt_endLot (s : State) (l : LotId) (i : SlotId) : (s.endLot l).waferAt i =
    (s.waferAt i).map fun w => if w.lotEntry = some l then { w with lotEntry := none } else w :=
  congrArg Slot.wafer (s.slot_endLot l i)

/-- No slot holds a bound member of an entry of which none is bound. -/
theorem State.not_memberOf (nobody : s.boundMembers l = 0) (hw : s.waferAt i = some w) : w.memberOf l = false := by
  rw [State.boundMembers_sum] at nobody
  have here := Finset.sum_eq_zero_iff.mp nobody i (Finset.mem_univ i)
  unfold State.memberAt at here
  rw [hw, Option.any_some] at here
  exact Bool.eq_false_iff.mpr fun member => by rw [if_pos member] at here; cases here

/-- An entry without a bound member becomes free, and its members leave it. -/
theorem State.Rosters.endLot (h : s.Rosters) (nobody : s.boundMembers l = 0) : (s.endLot l).Rosters := by
  have lots : ∀ k, tabGet (s.endLot l).lots k = if k = l then none else tabGet s.lots k := fun k => tabGet_tabSet _ _ _ _
  have kept : ∀ k e, tabGet (s.endLot l).lots k = some e → k ≠ l ∧ tabGet s.lots k = some e := fun k e he => by
    rw [lots] at he
    split at he
    · cases he
    · next hk => exact ⟨hk, he⟩
  refine ⟨fun k e he => ?_, fun j k a b ha hb => h.distinct j k a b (kept j a ha).2 (kept k b hb).2, fun i v hv => ?_⟩
  · obtain ⟨hk, he⟩ := kept k e he
    have members : (s.endLot l).boundMembers k = s.boundMembers k := by
      rw [State.boundMembers_sum, State.boundMembers_sum]
      refine Finset.sum_congr rfl fun i _ => ?_
      unfold State.memberAt
      rw [State.waferAt_endLot, Option.any_map]
      refine if_congr (Bool.eq_iff_iff.mp (congrArg (Option.any · _) (funext fun w => ?_))) rfl rfl
      show Wafer.memberOf (if w.lotEntry = some l then _ else w) k = _
      split
      · next hl =>
        rw [Wafer.memberOf, Wafer.memberOf, hl, beq_eq_false_iff_ne.mpr fun e => hk (Option.some.inj e).symm]
        rfl
      · rfl
    rw [members]
    exact h.balanced k e he
  · rw [State.waferAt_endLot] at hv
    obtain ⟨w, hw, rfl⟩ := Option.map_eq_some_iff.mp hv
    have old := h.enrolled i w hw
    split
    · next hl =>
      refine ⟨fun bound => ?_, fun k hk => nomatch hk⟩
      have member := (w.memberOf_iff l).mpr ⟨bound, hl⟩
      rw [State.not_memberOf nobody hw] at member
      cases member
    · next hl =>
      refine ⟨old.entry, fun k hk => ?_⟩
      obtain ⟨e, he, text⟩ := old.named k hk
      have other : k ≠ l := fun hkl => hl (hkl ▸ hk)
      exact ⟨e, ((lots k).trans (if_neg other)).trans he, text⟩

end

end Sys2Proof.Machine
end

section
/-! PROOFS. What leaves every slot and every lot entry as it is: line events, the frames and commands that bind, change
and end no wafer (for O10). -/
namespace Sys2Proof.Machine

section
variable (s : State) (p : PortId)

/-! ### The shared operations -/

@[simp] theorem State.rolls_withPort (f : Port → Port) : (s.withPort p f).rolls = s.rolls := rfl

@[simp] theorem State.rolls_settleLamps : s.settleLamps.rolls = s.rolls := rfl

@[simp] theorem State.rolls_popHost (rest : List Frame) : (s.popHost rest).rolls = s.rolls := rfl

@[simp] theorem State.rolls_compose (k : Byte) (bs : List Byte) : (s.compose k bs).rolls = s.rolls := rfl

@[simp] theorem State.rolls_notify (n : Notice) : (s.notify n).rolls = s.rolls := by
  rw [State.rolls, State.notify_slots, State.notify_lots, ← State.rolls]

@[simp] theorem State.rolls_queueOut (f : HeadOut) : (s.queueOut p f).rolls = s.rolls := rfl

@[simp] theorem State.rolls_refuseFrame (k : Byte) (r : RefuseReason) (a b : Byte) :
    (s.refuseFrame p k r a b).rolls = s.rolls := rfl

@[simp] theorem State.rolls_setTouchdowns (es : List Entry) : (s.setTouchdowns p es).rolls = s.rolls := rfl

@[simp] theorem State.rolls_countDiscard : (s.countDiscard p).rolls = s.rolls := rfl

@[simp] theorem State.rolls_queueOutIfUp (f : HeadOut) : (s.queueOutIfUp p f).rolls = s.rolls := by
  unfold State.queueOutIfUp
  split <;> rfl

@[simp] theorem State.rolls_judgeHeld (x : Byte) (src : Option Source) : (s.judgeHeld p x src).rolls = s.rolls := by
  obtain ⟨slots, lots, -⟩ := s.judgeHeld_rest p x src
  exact Prod.ext slots lots

@[simp] theorem State.rolls_judgeBound (o : Option PortId) (x : Byte) (src : Option Source) :
    (s.judgeBound o x src).rolls = s.rolls := by
  obtain ⟨slots, lots, -⟩ := s.judgeBound_rest o x src
  exact Prod.ext slots lots

@[simp] theorem State.rolls_dropAssignAt (o : Option PortId) (x : Byte) : (s.dropAssignAt o x).rolls = s.rolls := by
  obtain ⟨slots, lots, -⟩ := s.dropAssignAt_rest o x
  exact Prod.ext slots lots

theorem State.rolls_setPage (pg : StoredPage) (v : PageBytes) (o : Option PageOp) :
    State.rolls { s.setPage pg v with pageOp := o } = s.rolls := by
  cases pg <;> rfl

/-! ### Line events (R141 to R145) -/

theorem State.rolls_rxEffect (e : RxEvent) : (s.rxEffect p e).rolls = s.rolls := by
  cases e with
  | quiet => rfl
  | discarded => rfl
  | good f =>
    show (s.offer p f).rolls = _
    unfold State.offer
    dsimp only
    split
    · rfl
    · split <;> simp

theorem State.rolls_headChar (c : RxChar) : (State.headChar p s c).rolls = s.rolls := by
  unfold State.headChar
  dsimp only
  split
  · rfl
  · rw [State.rolls_rxEffect, State.rolls_withPort]

theorem State.rolls_headChars (cs : List RxChar) : ∀ s : State, (cs.foldl (State.headChar p) s).rolls = s.rolls := by
  induction cs with
  | nil => exact fun _ => rfl
  | cons c cs ih => exact fun s => (ih _).trans (s.rolls_headChar p c)

theorem State.rolls_shortBreak : (s.shortBreak p).rolls = s.rolls := by
  unfold State.shortBreak
  dsimp only
  split
  · rfl
  · rfl
  · split <;> rfl

/-! ### Head frames (R45 to R52, R148, R154) -/

theorem State.rolls_nonHeadFrame : (s.nonHeadFrame p).rolls = s.rolls := by
  unfold State.nonHeadFrame
  split
  · split <;> rfl
  · rfl

theorem State.rolls_beat (bs : List Byte) : (State.beat p s bs).rolls = s.rolls := by
  unfold State.beat
  split <;> rfl

theorem State.rolls_touch (bs : List Byte) : (State.touch p s bs).rolls = s.rolls := by
  unfold State.touch
  dsimp only
  split
  · rfl
  · split <;> rfl

theorem State.rolls_site (bs : List Byte) : (State.site p s bs).rolls = s.rolls := by
  unfold State.site
  dsimp only
  split
  · rfl
  · split <;> rfl

theorem State.rolls_queueHoldAfterWelcome : (s.queueHoldAfterWelcome p).rolls = s.rolls := by
  unfold State.queueHoldAfterWelcome
  split
  · split <;> rfl
  · rfl

/-! ### Host commands -/

variable (bs : List Byte)

theorem rolls_runHeadStatus : (runHeadStatus s bs).1.rolls = s.rolls := by
  unfold runHeadStatus
  split
  · rfl
  · split <;> rfl

theorem rolls_runStatus : (runStatus s bs).1.rolls = s.rolls := by
  unfold runStatus
  split <;> rfl

theorem rolls_runQueryPart : (runQueryPart s bs).1.rolls = s.rolls := by
  unfold runQueryPart
  split <;> rfl

theorem rolls_runBinsRead : (runBinsRead s bs).1.rolls = s.rolls := by
  unfold runBinsRead
  split <;> rfl

theorem rolls_runBinsSet : (runBinsSet s bs).1.rolls = s.rolls := by
  unfold runBinsSet
  split_ifs
  · rfl
  · rfl
  · rfl
  · generalize readBins bs = v
    rfl

theorem rolls_runLampSet : (runLampSet s bs).1.rolls = s.rolls := by
  unfold runLampSet
  split
  · rfl
  · split <;> rfl

theorem rolls_runAlertSet : (runAlertSet s bs).1.rolls = s.rolls := by
  unfold runAlertSet
  split_ifs <;> rfl

theorem rolls_runNoticeFetch : (runNoticeFetch s bs).1.rolls = s.rolls := by
  unfold runNoticeFetch
  split <;> rfl

theorem rolls_runLotRead : (runLotRead s bs).1.rolls = s.rolls :=
  State.withLot_keeps (P := fun u => u.rolls = s.rolls) rfl fun _ _ _ => rfl

theorem rolls_runPageErase : (runPageErase s bs).1.rolls = s.rolls := by
  unfold runPageErase
  split
  · rfl
  · split
    · rfl
    · split
      · rfl
      · split
        · rfl
        · exact s.rolls_setPage _ _ _

theorem rolls_runPageWrite : (runPageWrite s bs).1.rolls = s.rolls := by
  unfold runPageWrite
  split
  · rfl
  · split
    · rfl
    · split
      · rfl
      · split_ifs
        · rfl
        · rfl
        · rfl
        · exact s.rolls_setPage _ _ _

theorem State.rolls_pageDone (stored : Bool) : (s.pageDone stored).rolls = s.rolls := by
  unfold State.pageDone
  split
  · rfl
  · split
    · exact (State.rolls_notify _ _).trans (s.rolls_setPage _ _ none)
    · rfl

theorem State.rolls_unknownKind : s.unknownKind.rolls = s.rolls := by
  unfold State.unknownKind
  split
  · split <;> rfl
  · rfl

end

end Sys2Proof.Machine
end

section
/-! PROOFS. The lot entries through the application pass, the voiding of a wafer and the loss of a head (R28, R55, R56,
R60, R61, R133, R158; for O10). -/
namespace Sys2Proof.Machine

section
variable {X : SlotId → Prop} {s t : State} {p : PortId} {i : SlotId} {w : Wafer}

/-! ### Records -/

/-- A result that is fed leaves what the lots read of the record. -/
theorem Wafer.membership_fed (w : Wafer) (retest : Bool) (n : SiteId) (r : Bin) (c : BinClass) :
    (w.fed retest n r c).membership = w.membership := by
  have verdicts : ∀ (v : Wafer) vs, (v.afterVerdicts vs).membership = v.membership := fun v vs => by
    rw [Wafer.afterVerdicts_rest]
    rfl
  have latched : ∀ v : Wafer, v.afterLatch.membership = v.membership := fun v => by
    unfold Wafer.afterLatch
    split <;> rfl
  unfold Wafer.fed Wafer.afterFull
  split
  · exact (latched _).trans ((verdicts _ _).trans rfl)
  · rfl

theorem Wafer.membership_retest (w : Wafer) (cls : Bin → BinClass) (b k : Bin) :
    (w.retest cls b k).membership = w.membership := by
  unfold Wafer.retest
  split
  · rfl
  · dsimp only
    split <;> rfl

/-- A wafer goes from one bound state to another. -/
theorem Wafer.membership_state (hw : w.state.isBound = true) {st : WaferState} (hst : st.isBound = true) (o : Option PortId)
    (n : Word32) : Wafer.membership { w with state := st, boundPort := o, serial := n } = w.membership := by
  show (st.isBound, w.lotEntry, w.lotText) = (w.state.isBound, w.lotEntry, w.lotText)
  rw [hst, hw]

/-- The wafer of a slot goes from one bound state to another. -/
theorem State.Rosters.restate (h : s.Rosters) (hw : s.waferAt i = some w) (hb : w.state.isBound = true) {st : WaferState}
    (hst : st.isBound = true) : (s.withWafer i fun w => { w with state := st }).Rosters :=
  h.withWafer i fun v hv => by
    obtain rfl : w = v := Option.some.inj (hw.symm.trans hv)
    exact w.membership_state hb hst w.boundPort w.serial

/-! ### Sites and entries (R67 to R83) -/

theorem State.Rosters.withMap (h : s.Rosters) (m : List Host.Cell) : State.Rosters { s with map := m } := h.same

theorem State.Rosters.feedResult (h : s.Rosters) (i : SlotId) (retest : Bool) (n : SiteId) (r : Bin) :
    (s.feedResult i retest n r).Rosters :=
  h.updates (s.updates_feedResult i retest n r) fun w _ => w.membership_fed _ _ _ _

theorem State.Rosters.applySite (h : s.Rosters) (i : SlotId) (d : SiteEntry) : (State.applySite i s d).Rosters := by
  unfold State.applySite
  split
  · exact h
  · split
    · exact h.withWafer i
    · split
      · exact h.withWafer i
      · dsimp only
        split
        · exact ((h.withMap _).withWafer i).feedResult i _ _ _
        · split
          · exact h.withWafer i
          · exact ((h.withMap _).withWafer i fun w _ => w.membership_retest _ _ _).feedResult i _ _ _

theorem State.Rosters.applyEntry (h : s.Rosters) (e : Entry) : (s.applyEntry e).Rosters := by
  unfold State.applyEntry
  split
  · exact h
  · next i _ =>
    have applied : (e.ascending.foldl (State.applySite i) s).Rosters :=
      List.foldlRecOn e.ascending _ h fun _ hu d _ => hu.applySite i d
    exact applied.withWafer i

/-! ### The pass (R55, R56) -/

theorem State.Rosters.drainClose (h : s.Rosters) (books : s.Books) (x : Byte) (rest : List Entry) :
    (s.drainClose x rest).Rosters := by
  unfold State.drainClose
  split
  · exact h
  · split
    · exact h
    · next w hw =>
      split
      · next drained =>
        refine h.enterClosed books (fun v hv => ?_) _
        obtain rfl : w = v := Option.some.inj (hw.symm.trans hv)
        rw [drained.1]
        rfl
      · exact h

theorem State.Passes.passOne_rosters (h : s.Passes X) (k : s.Rosters) {e : Entry} {rest : List Entry}
    (hs : (s.port p).touchdowns = e :: rest) : (s.passOne p e rest).Rosters := by
  have he : e ∈ (s.port p).touchdowns := by rw [hs]; exact List.mem_cons_self
  exact ((k.applyEntry e).same (t := (s.applyEntry e).setTouchdowns p rest)).drainClose
    ((h.applyEntry he).withPort p _) e.handle rest

theorem State.Passes.runPass_rosters (h : s.Passes X) (k : s.Rosters) (p : PortId) : (s.runPass p).Rosters :=
  (State.pass_induction (P := fun u => u.Passes X ∧ u.Rosters) p
    (fun _ _ _ ⟨passes, rosters⟩ hs _ => ⟨passes.passOne hs, passes.passOne_rosters rosters hs⟩) _ s rfl ⟨h, k⟩).2

/-! ### The voiding of a wafer's entries (R61) -/

/-- A wafer's entries are counted as voided and leave its head's list, before a pass runs. -/
theorem State.Passes.withdraw (h : s.Passes X) (p : PortId) (i : SlotId) (n : Nat) :
    ((s.withWafer i fun w => { w with touchdownsVoided := satAdd w.touchdownsVoided n }).setTouchdowns p
      ((s.port p).touchdowns.filter fun e => e.handle != s.handleOf i)).Passes fun j => X j ∨ j = i := by
  have counted := (State.KeepsStore.refl s).withWafer i fun w => { w with touchdownsVoided := satAdd w.touchdownsVoided n }
  have heads := State.Heads.withdraw (((State.Quiet.refl s).withWafer i fun w =>
    { w with touchdownsVoided := satAdd w.touchdownsVoided n }).heads h.heads) p i
  rw [State.handleOf, State.generation_withWafer] at heads
  exact ⟨heads, (counted.setTouchdowns p _).law h.store,
    (h.books.withWafer i fun w _ => w.follows_voided (satAdd_le _ _)).withPort p _⟩

theorem State.Passes.voidWafer_rosters (h : s.Passes X) (k : s.Rosters) (p : PortId) (i : SlotId) :
    (s.voidWafer p i (s.handleOf i)).Rosters := by
  have withdrawn : ∀ n, ((s.withWafer i fun w => { w with touchdownsVoided := satAdd w.touchdownsVoided n }).setTouchdowns p
      ((s.port p).touchdowns.filter fun e => e.handle != s.handleOf i)).Rosters := fun n =>
    (k.withWafer i (f := fun w => { w with touchdownsVoided := satAdd w.touchdownsVoided n })).same
  unfold State.voidWafer
  dsimp only
  split
  · exact (h.withdraw p i _).runPass_rosters (withdrawn _) p
  · exact withdrawn _

theorem State.Passes.endTouchdowns_rosters (h : s.Passes X) (k : s.Rosters) (i : SlotId) (w : Wafer) :
    (s.endTouchdowns i w (s.handleOf i)).Rosters := by
  unfold State.endTouchdowns
  split
  · exact (h.voidWafer_rosters k _ i).same (State.rolls_queueOutIfUp _ _ _)
  · exact k

/-- A wafer whose touchdowns the host ends stays bound until it ends itself (R61). -/
theorem State.bound_endTouchdowns (hw : s.waferAt i = some w) (hb : w.state.isBound = true) {v : Wafer}
    (hv : (s.endTouchdowns i w (s.handleOf i)).waferAt i = some v) : v.state.isBound = true := by
  have binding : ((s.endTouchdowns i w (s.handleOf i)).waferAt i).map Wafer.binding = (s.waferAt i).map Wafer.binding := by
    unfold State.endTouchdowns
    split
    · next p _ =>
      have slots := congrArg Prod.fst ((s.voidWafer p i (s.handleOf i)).rolls_queueOutIfUp p (.cancel (s.handleOf i)))
      have wafer := congrArg (fun v => ((tabGet v i).wafer).map Wafer.binding) slots
      exact wafer.trans (s.binding_voidWafer p i)
    · rfl
  rw [hv, hw] at binding
  have state : v.state = w.state := congrArg Prod.fst (Option.some.inj binding)
  rw [state]
  exact hb

/-! ### The loss of a head (R28, R60, R158) -/

/-- The lot entries agree with the wafers that name them, and the books with the cells: what a close leans on. -/
structure State.Accounts (s : State) : Prop where
  books : s.Books
  rosters : s.Rosters

theorem State.Accounts.countVoided (h : s.Accounts) (e : Entry) : (s.countVoided e).Accounts := by
  refine ⟨h.books.countVoided e, ?_⟩
  unfold State.countVoided
  split
  · exact h.rosters.withWafer _
  · exact h.rosters

theorem State.Accounts.closeIfDraining (h : s.Accounts) (p : PortId) (i : SlotId) : (State.closeIfDraining p s i).Accounts := by
  refine ⟨h.books.closeIfDraining p i, ?_⟩
  unfold State.closeIfDraining
  split
  · next w hw =>
    split
    · next drained =>
      refine h.rosters.enterClosed h.books (fun v hv => ?_) _
      obtain rfl : w = v := Option.some.inj (hw.symm.trans hv)
      rw [drained.1]
      rfl
    · exact h.rosters
  · exact h.rosters

theorem State.Accounts.suspendIfActive (h : s.Accounts) (p : PortId) (i : SlotId) : (State.suspendIfActive p s i).Accounts := by
  refine ⟨h.books.suspendIfActive p i, ?_⟩
  unfold State.suspendIfActive
  split
  · next w hw =>
    split
    · next active =>
      exact (h.rosters.restate hw (by rw [active.1]; rfl) rfl).same (State.rolls_notify _ _)
    · exact h.rosters
  · exact h.rosters

/-- The three steps of a loss that change records, then those that do not. -/
theorem State.Accounts.lose (h : s.Accounts) (p : PortId) (cause : LossCause) : (s.lose p cause).Accounts := by
  have counted : ((s.port p).touchdowns.foldl State.countVoided s).Accounts :=
    List.foldlRecOn _ _ h fun _ hu e _ => hu.countVoided e
  have voided : (s.voidAll p).Accounts := ⟨counted.books.withPort p _, counted.rosters.same⟩
  have closed := List.foldlRecOn slotIds _ voided fun _ hu i _ => hu.closeIfDraining p i
  have unmanned : (s.unmanned p).Accounts := List.foldlRecOn slotIds _ closed fun _ hu i _ => hu.suspendIfActive p i
  refine ⟨h.books.lose p cause, ?_⟩
  rw [State.lose_eq]
  exact unmanned.rosters.same (by simp)

theorem State.Accounts.headSet (h : s.Accounts) (p : PortId) (l : LineSettings) : (s.headSet p l).Accounts := by
  have stored : ((s.withPort p fun q => q.storeTimer l).withPort p fun q => q.storeDivisor l.divisor).Accounts :=
    ⟨h.books.same, h.rosters.same⟩
  refine ⟨h.books.headSet p l, ?_⟩
  unfold State.headSet
  dsimp only
  split
  · split
    · exact (stored.lose p _).rosters
    · split <;> exact stored.rosters.same
  · split
    · exact stored.rosters
    · exact stored.rosters.same
  · split
    · exact stored.rosters.same
    · split
      · exact stored.rosters
      · exact stored.rosters.same
  · split
    · exact stored.rosters.same
    · split
      · exact stored.rosters
      · exact stored.rosters.same

end

end Sys2Proof.Machine
end

section
/-! PROOFS. Every step keeps the lot entries in agreement with the wafers that name them (O10). -/
namespace Sys2Proof.Machine

section
variable {s t : State} {p : PortId} {i : SlotId} {w : Wafer}

/-- What a step leans on as it keeps the law of the lots. -/
structure State.Tracked (s : State) : Prop extends s.Kept where
  rosters : s.Rosters

theorem State.Tracked.accounts (h : s.Tracked) : s.Accounts := ⟨h.books, h.rosters⟩

/-- A command is taken, whatever it does. -/
theorem State.Tracked.takeHost (h : s.Tracked) {code : Byte} {run : State → List Byte → Answer}
    (hr : ∀ (u : State) bs, u.Tracked → (run u bs).1.Rosters) : (s.takeHost code run).Rosters := by
  unfold State.takeHost
  split
  · next f rest _ hq =>
    split
    · exact (hr _ _ ⟨h.popHost hq, h.rosters.same⟩).same
    · exact h.rosters
  · exact h.rosters

/-- A command is taken that leaves every slot and every entry. -/
theorem State.Tracked.takeHost_same (h : s.Tracked) {code : Byte} {run : State → List Byte → Answer}
    (hr : ∀ (u : State) bs, (run u bs).1.rolls = u.rolls) : (s.takeHost code run).Rosters :=
  h.takeHost fun u bs hu => hu.rosters.same (hr u bs)

/-- A frame of another kind than ANNOUNCE is taken, whatever its owner makes of it. -/
theorem State.Tracked.takeHead (h : s.Tracked) (p : PortId) (k : Byte) {owner : State → List Byte → State}
    (ho : ∀ (u : State) bs, u.Tracked → (owner u bs).Rosters) : (s.takeHead p k owner).Rosters := by
  unfold State.takeHead
  split
  · next f rest hr =>
    split
    · have taken : (s.withPort p fun q => q.takeFrame k rest).Tracked :=
        { lines := h.lines.quiet ((State.Quiet.refl s).takeFrame hr k)
          store := ((State.KeepsStore.refl s).takeFrame p k rest).law h.store
          books := h.books.same
          rosters := h.rosters.same }
      dsimp only
      split
      · exact ho _ _ taken
      · exact taken.rosters.same
    · exact h.rosters
  · exact h.rosters

/-! ### Head frames (R24, R30, R53, R144, R152, R156) -/

theorem State.Accounts.longBreak (h : s.Accounts) (p : PortId) : (s.longBreak p).Rosters := by
  have broken : ((s.shortBreak p).withPort p fun q => { q with line := .longTaken }).Accounts :=
    ⟨(h.books.shortBreak p).withPort p _, h.rosters.same (s.rolls_shortBreak p)⟩
  unfold State.longBreak
  split
  · exact h.rosters
  · dsimp only
    split
    · exact (broken.lose p _).rosters
    · exact broken.rosters

theorem State.Accounts.silenceExpiry (h : s.Accounts) (p : PortId) : (s.silenceExpiry p).Rosters := by
  unfold State.silenceExpiry
  split
  · exact (h.lose p _).rosters
  · exact h.rosters

theorem State.Tracked.lift (h : s.Tracked) (p : PortId) (bs : List Byte) : (State.lift p s bs).Rosters := by
  have sealed : (s.setTouchdowns p (sealTag (s.port p).touchdowns (charAt bs 0))).Passes fun _ => False :=
    ⟨h.lines.heads.seal p _, ((State.KeepsStore.refl s).setTouchdowns p _).law h.store, h.books.same⟩
  have rosters : (s.setTouchdowns p (sealTag (s.port p).touchdowns (charAt bs 0))).Rosters := h.rosters.same
  unfold State.lift
  dsimp only
  split
  · exact h.rosters.same
  · split
    · exact h.rosters.same
    · split
      · exact h.rosters.same
      · split
        · exact sealed.runPass_rosters rosters p
        · exact rosters

theorem State.Accounts.unload (h : s.Accounts) (p : PortId) (bs : List Byte) : (State.unload p s bs).Rosters := by
  unfold State.unload
  dsimp only
  split
  · exact h.rosters.same
  · split
    · next i w hi hact =>
      obtain ⟨j, hj, hw, active, -⟩ := State.activeOn_eq_some hact
      obtain rfl : i = j := Option.some.inj (hi.symm.trans hj)
      have bound : w.state.isBound = true := by rw [active]; rfl
      split
      · split
        · exact h.rosters.same
        · exact (h.rosters.restate hw bound rfl).same
      · exact h.rosters.enterClosed h.books (fun v hv => Option.some.inj (hw.symm.trans hv) ▸ bound) _
    · exact h.rosters.same

theorem State.Rosters.announceUp (h : s.Rosters) (p : PortId) (serial : Word32) (n : Nat) (resume : Option Byte) :
    (s.announceUp p serial n resume).Rosters := by
  have started : (s.withPort p fun q => q.startSession serial n).Rosters := h.same
  unfold State.announceUp
  dsimp only
  generalize (s.withPort p fun q => q.startSession serial n) = u at *
  -- the steps after the resumption bind and change no wafer
  have after : ∀ (v : State) m f, v.Rosters →
      ((((v.notify m).queueOut p f).queueHoldAfterWelcome p).settleLamps).Rosters := fun v m f hv =>
    hv.same ((State.rolls_queueHoldAfterWelcome _ p).trans (v.rolls_notify m))
  refine after _ _ _ ?_
  split
  · next i hi =>
    obtain ⟨x, -, hx⟩ := Option.bind_eq_some_iff.mp hi
    obtain ⟨w, hw, he⟩ := Option.map_eq_some_iff.mp ((u.resumable_eq_some_iff p serial x i).mp hx).2
    have suspended : w.state = .suspended := (Prod.mk.inj he).1
    exact (started.restate hw (by rw [suspended]; rfl) rfl).same (State.rolls_judgeHeld _ _ _ _)
  · exact started

theorem State.Accounts.takeAnnounce (h : s.Accounts) (p : PortId) : (s.takeAnnounce p).Rosters := by
  unfold State.takeAnnounce
  split
  · next f rest _ =>
    split
    · have taken : (s.withPort p fun q => q.takeFrame kindAnnounce rest).Accounts := ⟨h.books.same, h.rosters.same⟩
      unfold State.announce
      split
      · exact taken.rosters.same
      · dsimp only
        split
        · exact (taken.lose p _).rosters.announceUp p _ _ _
        · exact taken.rosters.announceUp p _ _ _
    · exact h.rosters
  · exact h.rosters

/-! ### HEAD_SET and HEAD_DROP (R161 to R164) -/

theorem State.Accounts.runHeadSet (h : s.Accounts) (bs : List Byte) : (runHeadSet s bs).1.Rosters := by
  unfold Machine.runHeadSet
  split
  · exact h.rosters
  · split
    · exact h.rosters
    · split
      · exact h.rosters
      · exact (h.headSet _ _).rosters.same

theorem State.Accounts.runHeadDrop (h : s.Accounts) (bs : List Byte) : (runHeadDrop s bs).1.Rosters := by
  unfold Machine.runHeadDrop
  split
  · exact h.rosters
  · split
    · exact h.rosters
    · split
      · exact h.rosters
      · exact (h.lose _ _).rosters

/-! ### The wafer commands (R20 to R36) -/

theorem State.Rosters.openWafer (h : s.Rosters) (a : OpenArgs) (free : s.waferAt i = none) (prof : Profile) {l : LotId}
    (hl : s.lotFor a.lotText = some l) (base : Nat) : (s.openWafer a i prof l base).Rosters := by
  have cleared := h.withMap (mapClear base (blockSizeFor (a.rows * a.columns)) s.map)
  have enrolled := cleared.enroll (w := newWafer a l base (s.port a.port).serial prof) free hl rfl rfl
  unfold State.openWafer
  dsimp only
  exact enrolled.same (State.rolls_judgeHeld _ _ _ _)

theorem State.Rosters.runWaferOpen (h : s.Rosters) (bs : List Byte) : (runWaferOpen s bs).1.Rosters := by
  unfold Machine.runWaferOpen
  split
  · exact h
  · split
    · exact h
    · next a _ =>
      unfold State.judgeOpen
      split_ifs
      · exact h
      · exact h
      · exact h
      · split
        · exact h
        · next i hi =>
          split
          · exact h
          · split
            · exact h
            · next l hl =>
              split
              · exact h
              · have free : (s.waferAt i).isNone = true := List.find?_some (p := fun i => (s.waferAt i).isNone) hi
                exact h.openWafer a (Option.isNone_iff_eq_none.mp free) _ hl _

/-- The touchdowns that a host ending voids leave its wafer a bound member, so its end moves one count (R32). -/
theorem State.Tracked.runWaferClose (h : s.Tracked) (bs : List Byte) : (runWaferClose s bs).1.Rosters := by
  unfold Machine.runWaferClose
  split
  · exact h.rosters
  · refine State.withHandle_keeps h.rosters fun i w hi hw => ?_
    split
    · next bound =>
      rw [← hi]
      exact (h.passes.endTouchdowns_rosters h.rosters i w).enterClosed (h.passes.endTouchdowns i w)
        (fun _ hv => State.bound_endTouchdowns hw bound hv) _
    · exact h.rosters

theorem State.Tracked.runWaferAbandon (h : s.Tracked) (bs : List Byte) : (runWaferAbandon s bs).1.Rosters := by
  unfold Machine.runWaferAbandon
  split
  · exact h.rosters
  · refine State.withHandle_keeps h.rosters fun i w hi hw => ?_
    split
    · next bound =>
      rw [← hi]
      exact (h.passes.endTouchdowns_rosters h.rosters i w).enterAbandoned fun _ hv =>
        State.bound_endTouchdowns hw bound hv
    · exact h.rosters

theorem State.Rosters.resumeOn (h : s.Rosters) (hw : s.waferAt i = some w) (hs : w.state = .suspended) (x : Byte) (p : PortId) :
    (s.resumeOn i w x p).Rosters := by
  have resumed := h.withWafer i (f := fun w => { w with state := .active, boundPort := some p, serial := (s.port p).serial })
    fun v hv => v.membership_state (by rw [Option.some.inj (hv.symm.trans hw), hs]; rfl) rfl _ _
  unfold State.resumeOn
  dsimp only
  exact resumed.same (by simp)

theorem State.Rosters.runWaferResume (h : s.Rosters) (bs : List Byte) : (runWaferResume s bs).1.Rosters := by
  unfold Machine.runWaferResume
  split
  · exact h
  · split
    · exact h
    · refine State.withHandle_keeps h fun i w _ hw => ?_
      split_ifs with suspended
      · exact h
      · exact h
      · exact h
      · exact h.resumeOn hw (not_not.mp suspended) _ _

theorem State.Rosters.runWaferDiscard (h : s.Rosters) (bs : List Byte) : (runWaferDiscard s bs).1.Rosters := by
  unfold Machine.runWaferDiscard
  split
  · exact h
  · refine State.withHandle_keeps h fun i w _ hw => ?_
    split
    · exact h
    · next unbound =>
      exact h.freeSlotAt fun v hv => Option.some.inj (hw.symm.trans hv) ▸ Bool.eq_false_iff.mpr unbound

/-! ### The other host commands -/

theorem State.Rosters.runLimitsStage (h : s.Rosters) (bs : List Byte) : (runLimitsStage s bs).1.Rosters := by
  have staged : ∀ i prof source, (s.stage i prof source).Rosters := fun i _ _ => h.withWafer i
  have checked : ∀ {x : Byte} {k : SlotId → Answer}, (∀ i, (k i).1.Rosters) → (s.stageCheck x k).1.Rosters := fun {x k} hk => by
    refine State.withHandle_keeps h fun i w _ _ => ?_
    split
    · exact hk i
    · exact h
  unfold Machine.runLimitsStage
  split
  · split
    · exact h
    · refine checked fun i => ?_
      split
      · exact h
      · exact staged _ _ _
  · split_ifs
    · exact h
    · exact h
    · exact checked fun i => staged _ _ _

theorem State.Rosters.runHoldRelease (h : s.Rosters) (bs : List Byte) : (runHoldRelease s bs).1.Rosters := by
  unfold Machine.runHoldRelease
  split
  · exact h
  · exact State.withHandle_keeps h fun i w _ _ =>
      (h.withWafer i (f := Wafer.acknowledge)).same (State.rolls_judgeBound _ _ _ _)

theorem State.Rosters.runLotEnd (h : s.Rosters) (bs : List Byte) : (runLotEnd s bs).1.Rosters := by
  unfold Machine.runLotEnd
  refine State.withLot_keeps h fun l e _ => ?_
  split
  · exact h
  · next nobody => exact h.endLot (not_not.mp nobody)

/-! ### Resets (R174, R182) -/

/-- A state without wafers and lot entries. -/
theorem State.rosters_empty (slots : ∀ i, s.waferAt i = none) (lots : s.lots = Vector.replicate 4 none) : s.Rosters := by
  have unused : ∀ {l e}, tabGet s.lots l ≠ some e := fun {l e} he => by
    rw [lots, tabGet_replicate] at he
    cases he
  exact ⟨fun l e he => (unused he).elim, fun k l d e hd => (unused hd).elim,
    fun i w hw => (Option.some_ne_none w (hw.symm.trans (slots i))).elim⟩

theorem State.rosters_softReset (s : State) : s.softReset.Rosters :=
  State.rosters_empty (fun i => by rw [State.waferAt, State.slot_softReset]) rfl

theorem State.rosters_restart (s : State) (st : Straps) : (s.restart st).Rosters :=
  State.rosters_empty (fun i => by rw [State.waferAt, State.slot_restart]) rfl

theorem State.Rosters.runPartReset (h : s.Rosters) (bs : List Byte) : (runPartReset s bs).1.Rosters := by
  unfold Machine.runPartReset
  split
  · exact h
  · exact s.rosters_softReset

/-! ### Every step -/

/-- Every command keeps the law of the lots. -/
theorem exec_rosters {c : Instr} (h : s.Tracked) (he : exec c s = .next t) : t.Rosters := by
  have rosters := h.rosters
  -- the next state of an arm that cannot stop, and of one whose cells exist
  have next : ∀ {u : State}, u.Rosters → Host.Outcome.next u = (Host.Outcome.next t : Host.Outcome State Fault Refusal) →
      t.Rosters := fun hu e => Host.Outcome.next.inj e ▸ hu
  have guarded : ∀ {u : State}, u.Rosters → s.guardCells u = .next t → t.Rosters := fun hu e =>
    (State.guardCells_next e).2 ▸ hu
  cases c with
  | headFrameReceived p cs => exact next (rosters.same (State.rolls_headChars p cs s)) he
  | shortBreak p => exact next (rosters.same (s.rolls_shortBreak p)) he
  | longBreak p => exact next (h.accounts.longBreak p) he
  | hostFrameReceived cs => exact next rosters.same he
  | hostShortBreak => exact next rosters.same he
  | announce p => exact next (h.accounts.takeAnnounce p) he
  | touch p => exact next (h.takeHead p _ fun u bs hu => hu.rosters.same (u.rolls_touch p bs)) he
  | site p => exact next (h.takeHead p _ fun u bs hu => hu.rosters.same (u.rolls_site p bs)) he
  | lift p => exact guarded (h.takeHead p _ fun u bs hu => hu.lift p bs) he
  | unload p => exact next (h.takeHead p _ fun u bs hu => hu.accounts.unload p bs) he
  | beat p => exact next (h.takeHead p _ fun u bs hu => hu.rosters.same (u.rolls_beat p bs)) he
  | nonHeadFrame p => exact next (rosters.same (s.rolls_nonHeadFrame p)) he
  | silenceExpiry p => exact next (h.accounts.silenceExpiry p) he
  | headFrameSend p r => exact next rosters.same he
  | hostReplySend e => exact next rosters.same he
  | pageDone stored => exact next (rosters.same (s.rolls_pageDone stored)) he
  | lampPhaseExpiry l => exact next rosters.same he
  | powerUp st => exact next (s.rosters_restart st) he
  | pinReset st => exact next (s.rosters_restart st) he
  | queryPart => exact next (h.takeHost_same rolls_runQueryPart) he
  | status => exact next (h.takeHost_same rolls_runStatus) he
  | headSet => exact next (h.takeHost fun u bs hu => hu.accounts.runHeadSet bs) he
  | headStatus => exact next (h.takeHost_same rolls_runHeadStatus) he
  | headDrop => exact next (h.takeHost fun u bs hu => hu.accounts.runHeadDrop bs) he
  | waferOpen => exact next (h.takeHost fun u bs hu => hu.rosters.runWaferOpen bs) he
  | waferClose => exact guarded (h.takeHost fun u bs hu => hu.runWaferClose bs) he
  | waferAbandon => exact guarded (h.takeHost fun u bs hu => hu.runWaferAbandon bs) he
  | waferResume => exact next (h.takeHost fun u bs hu => hu.rosters.runWaferResume bs) he
  | waferDiscard => exact next (h.takeHost fun u bs hu => hu.rosters.runWaferDiscard bs) he
  | waferRead => exact next (h.takeHost_same fun u bs => by rw [runWaferRead_fst]) he
  | mapRead => exact guarded (h.takeHost_same fun u bs => by rw [runMapRead_fst]) he
  | alarmsRead => exact next (h.takeHost_same fun u bs => by rw [runAlarmsRead_fst]) he
  | limitsStage => exact next (h.takeHost fun u bs hu => hu.rosters.runLimitsStage bs) he
  | limitsRead => exact next (h.takeHost_same fun u bs => by rw [runLimitsRead_fst]) he
  | holdRelease => exact next (h.takeHost fun u bs hu => hu.rosters.runHoldRelease bs) he
  | waferBins => exact next (h.takeHost_same fun u bs => by rw [runWaferBins_fst]) he
  | binsSet => exact next (h.takeHost_same rolls_runBinsSet) he
  | binsRead => exact next (h.takeHost_same rolls_runBinsRead) he
  | lampSet => exact next (h.takeHost_same rolls_runLampSet) he
  | alertSet => exact next (h.takeHost_same rolls_runAlertSet) he
  | lotRead => exact next (h.takeHost_same rolls_runLotRead) he
  | lotEnd => exact next (h.takeHost fun u bs hu => hu.rosters.runLotEnd bs) he
  | noticeFetch => exact next (h.takeHost_same rolls_runNoticeFetch) he
  | pageRead => exact next (h.takeHost_same fun u bs => by rw [runPageRead_fst]) he
  | pageWrite => exact next (h.takeHost_same rolls_runPageWrite) he
  | pageErase => exact next (h.takeHost_same rolls_runPageErase) he
  | partReset => exact next (h.takeHost fun u bs hu => hu.rosters.runPartReset bs) he
  | unknownKind => exact next (rosters.same s.rolls_unknownKind) he
  | framingError p c => exact next (rosters.same (s.rolls_headChar p c)) he
  | breakEnd p => exact next rosters.same he
  | hostFramingError c => exact next rosters.same he
  | hostBreakEnd => exact next rosters.same he
  | frameFinished p r => exact next rosters.same he

/-- Every step keeps the law of the lots. -/
theorem step_rosters (h : s.Tracked) (he : step s = .next t) : t.Rosters := by
  unfold step at he
  split at he
  · exact Host.Outcome.next.inj he ▸ h.rosters.same
  · next c rest _ =>
    have tracked : State.Tracked { s with pending := rest } :=
      { lines := h.lines.quiet (.aside (.refl s)), store := h.store.same rfl, books := h.books.same
        rosters := h.rosters.same }
    exact exec_rosters tracked he

theorem State.Sound.tracked (h : s.Sound) : s.Tracked := { h.kept with rosters := s.lotLaw_iff.mp h.lot }

end

/-- Settles O10: an opened wafer and a wafer's end move one member each in and out of the counts of its entry, a closing
wafer's own counts sum as R84 says, and nothing else that a step does touches an entry or a membership. -/
theorem stepsKeepTheLotLaw : Obligations.StepsKeepTheLotLaw := fun _ t sound he =>
  t.lotLaw_iff.mpr (step_rosters sound.tracked he)

end Sys2Proof.Machine
end

section
/-! PROOFS. LOT_END: its checks, its reply and the freeing of its entry (O59). -/
namespace Sys2Proof.Machine

section
variable {s : State} {l : LotId} {n : Byte} {rest : List Frame}

/-- An entry has a bound member where some slot holds one (R137). -/
theorem State.boundMembers_ne_zero_iff :
    s.boundMembers l ≠ 0 ↔ ∃ i, ((s.waferAt i).any fun w => w.state.isBound && w.lotEntry == some l) = true := by
  rw [State.boundMembers_eq, ← Nat.pos_iff_ne_zero, List.length_pos_iff_exists_mem]
  exact exists_congr fun i => List.mem_filter.trans (and_iff_right (mem_slotIds i))

theorem runLotEnd_eq (s : State) (n : Byte) : runLotEnd s [n] =
    match lotOf n.toNat with
    | none => s.refuse .badArg
    | some l =>
      match tabGet s.lots l with
      | none => s.refuse .noLot
      | some e => if s.boundMembers l ≠ 0 then s.refuse .wrongState else (s.endLot l).accept (e.chars l 0) := rfl

/-- The slots after an entry ends: its members' lot entry field becomes absent (R37). -/
theorem State.slots_endLot (s : State) (l : LotId) : (s.endLot l).slots =
    Vector.ofFn fun i => ⟨(tabGet s.slots i).generation, (s.waferAt i).map fun w =>
      { w with lotEntry := if w.lotEntry = some l then none else w.lotEntry }⟩ := by
  refine tab_ext fun i => ?_
  rw [State.slot_endLot]
  refine Eq.trans ?_ (Vector.getElem_ofFn i.isLt).symm
  refine congrArg (Slot.mk _) (congrArg (Option.map · _) (funext fun w => ?_))
  split <;> rfl

/-- LOT_END by the entry its index names, whether that is in use, and whether a member of it is bound (R138). -/
theorem takeLotEnd (finds : s.HostFinds 0x59 [n] rest) : s.takeHost 0x59 runLotEnd =
    match lotIds.find? (fun l => l.val = n.toNat) with
    | none => s.answered rest 0x59 [2]
    | some l =>
      match tabGet s.lots l with
      | none => s.answered rest 0x59 [8]
      | some e =>
        if s.boundMembers l ≠ 0 then s.answered rest 0x59 [5]
        else (s.endLot l).answered rest 0x59 (0 :: n :: e.lotText ++ write3 e.opened ++ write3 e.closed ++
          write3 e.abandoned ++ [0] ++ write3 e.tested ++ write3 e.pass ++ [if e.lowReported = true then 1 else 0] ++
          (tabList e.bins).tail.flatMap write3) := by
  rw [State.takeHost_finds finds, runLotEnd_eq, lotOf_eq]
  cases hl : lotIds.find? (fun l => l.val = n.toNat) with
  | none => rfl
  | some l =>
    have members : (s.popHost rest).boundMembers l = s.boundMembers l := rfl
    dsimp only [State.popHost_lots]
    rw [members]
    cases tabGet s.lots l with
    | none => rfl
    | some e =>
      have index : BitVec.ofNat 8 l.val = n := by
        have named : l.val = n.toNat := by simpa using List.find?_some hl
        rw [named, BitVec.ofNat_toNat, BitVec.setWidth_eq]
      dsimp only
      split
      · rfl
      · rw [Lot.chars, index]
        simp only [List.cons_append, List.append_assoc]
        rfl

end

/-- Settles O59: by the cases of a LOT_END, with the freed entry and the slots its members leave written out. -/
theorem lotEndFreesTheEntry : Obligations.LotEndFreesTheEntry := by
  refine ⟨refusesLength_of (fun _ _ => rfl) fun _ _ wrong => if_pos wrong,
    fun s n rest finds => congrArg Host.Outcome.next ((takeLotEnd finds).trans ?_)⟩
  cases lotIds.find? (fun l => l.val = n.toNat) with
  | none => rfl
  | some l =>
    dsimp only
    cases tabGet s.lots l with
    | none => rfl
    | some e =>
      refine if_congr State.boundMembers_ne_zero_iff rfl ?_
      rw [← s.slots_endLot l]
      rfl

end Sys2Proof.Machine
end

section
/-! PROOFS. The receivers of a head port and of the host line, character by character, and the breaks on both lines (O17,
O19, O20). -/
namespace Sys2Proof.Machine

variable {s : State} {p : PortId} {q : HostLine} {c : RxChar}

/-! ### The receiver (R141) -/

/-- What becomes of a frame in progress that is broken off: it is discarded, where there is one (R141). -/
def Receiver.brokenOff (r : Receiver) : RxEvent := if r = .hunt then .quiet else .discarded

theorem Receiver.brokenOff_eq (r : Receiver) : (if r.busy = true then RxEvent.discarded else .quiet) = r.brokenOff := by
  cases r <;> rfl

theorem Receiver.char_of_low (stop : c.stopHigh = false) (r : Receiver) : r.char c = (.hunt, r.brokenOff) := by
  rw [Receiver.char, if_pos stop, Receiver.brokenOff_eq]

theorem Receiver.char_of_mark (stop : c.stopHigh = true) (mark : c.mark = true) (r : Receiver) :
    r.char c = (.length c.value, r.brokenOff) := by
  rw [Receiver.char, if_neg (by rw [stop]; decide), if_pos mark, Receiver.brokenOff_eq]

theorem Receiver.char_of_unmarked (stop : c.stopHigh = true) (mark : c.mark = false) (r : Receiver) :
    r.char c = r.unmarked c.value := by
  rw [Receiver.char, if_neg (by rw [stop]; decide), if_neg (by rw [mark]; decide)]

/-! ### A character at a head port (R141, R142, R147) -/

/-- A frame in progress that is broken off is counted at its port (R141, R143, R147). -/
theorem State.rxEffect_brokenOff (s : State) (p : PortId) {f : Port → Port}
    (uncounted : (f (s.port p)).discarded = (s.port p).discarded) :
    (s.withPort p f).rxEffect p (s.port p).rx.brokenOff = s.withPort p fun q => { f q with discarded := q.discardedAfter } := by
  unfold Receiver.brokenOff
  split
  · next hunt =>
    refine s.withPort_congr p ?_
    rw [Port.discardedAfter, if_pos hunt, ← uncounted]
  · next busy =>
    refine (s.withPort_withPort p _ _).trans (s.withPort_congr p ?_)
    rw [Port.discardedAfter, if_neg busy, ← uncounted]
    rfl

/-- A character at an enabled port whose line is high is taken by its receiver (R141). -/
theorem State.headChar_taken (on : (s.port p).session ≠ .disabled) (high : (s.port p).line = .high) (c : RxChar) :
    State.headChar p s c = (s.withPort p fun q =>
      { q with rx := ((s.port p).rx.char c).1, line := if c.stopHigh then .high else .low }).rxEffect p
        ((s.port p).rx.char c).2 :=
  if_neg fun h => h.elim on fun low => low high

theorem State.headChar_of_low (on : (s.port p).session ≠ .disabled) (high : (s.port p).line = .high)
    (stop : c.stopHigh = false) : State.headChar p s c =
      s.withPort p fun q => { q with rx := .hunt, line := .low, discarded := q.discardedAfter } := by
  rw [State.headChar_taken on high, Receiver.char_of_low stop, stop]
  exact s.rxEffect_brokenOff p rfl

/-- A high stop bit leaves a high line high (R141). -/
theorem State.headChar_of_high (on : (s.port p).session ≠ .disabled) (high : (s.port p).line = .high)
    (stop : c.stopHigh = true) : State.headChar p s c =
      (s.withPort p fun q => { q with rx := ((s.port p).rx.char c).1 }).rxEffect p ((s.port p).rx.char c).2 := by
  rw [State.headChar_taken on high, stop]
  refine congrArg (State.rxEffect · p _) (s.withPort_congr p ?_)
  rw [if_pos rfl, ← high]

theorem State.headChar_of_mark (on : (s.port p).session ≠ .disabled) (high : (s.port p).line = .high)
    (stop : c.stopHigh = true) (mark : c.mark = true) : State.headChar p s c =
      s.withPort p fun q => { q with rx := .length c.value, discarded := q.discardedAfter } := by
  rw [State.headChar_of_high on high stop, Receiver.char_of_mark stop mark]
  exact s.rxEffect_brokenOff p rfl

/-- An unmarked character goes by the receiver's state (R141, R142). -/
theorem State.headChar_of_unmarked (on : (s.port p).session ≠ .disabled) (high : (s.port p).line = .high)
    (stop : c.stopHigh = true) (mark : c.mark = false) : State.headChar p s c =
      (s.withPort p fun q => { q with rx := ((s.port p).rx.unmarked c.value).1 }).rxEffect p
        ((s.port p).rx.unmarked c.value).2 := by
  rw [State.headChar_of_high on high stop, Receiver.char_of_unmarked stop mark]

/-- No character is taken on a line that has not returned high, or by a disabled port (R140, R141, R143). -/
theorem State.headChar_ignored (h : (s.port p).line ≠ .high ∨ (s.port p).session = .disabled) (c : RxChar) :
    State.headChar p s c = s := if_pos h.symm

theorem State.headChars_ignored (h : (s.port p).line ≠ .high ∨ (s.port p).session = .disabled) (cs : List RxChar) :
    cs.foldl (State.headChar p) s = s := by
  induction cs with
  | nil => rfl
  | cons c cs ih => rw [List.foldl_cons, State.headChar_ignored h, ih]

/-- Settles O17: by the stop bit, the mark, and the receiver's state. -/
theorem receiverActsByItsState : Obligations.ReceiverActsByItsState := by
  refine fun s p c on high => ⟨rfl, congrArg Host.Outcome.next ?_⟩
  show State.headChar p s c = _
  by_cases stop : c.stopHigh = false
  · rw [if_pos stop, State.headChar_of_low on high stop]
  rw [if_neg stop]
  have stop := Bool.of_not_eq_false stop
  by_cases mark : c.mark = true
  · rw [if_pos mark, State.headChar_of_mark on high stop mark]
  rw [if_neg mark, State.headChar_of_unmarked on high stop (Bool.eq_false_of_not_eq_true mark)]
  cases rx : (s.port p).rx with
  | hunt => exact s.withPort_id p (congrArg (fun r => { s.port p with rx := r }) rx.symm)
  | length k =>
    dsimp only [Receiver.unmarked]
    split
    · rfl
    · split
      · rfl
      · exact s.withPort_withPort p _ _
  | payload k n got =>
    dsimp only [Receiver.unmarked]
    rw [List.length_append, List.length_singleton]
    split <;> rfl
  | check k got =>
    dsimp only [Receiver.unmarked]
    rw [frameCheck]
    split
    · rfl
    · exact s.withPort_withPort p _ _

/-! ### A character on the host line (R166) -/

/-- A line event of the host changes the host line alone, so its outcome is told by that (R166). -/
theorem nextHost_congr {q r : HostLine} (h : q = r) :
    (.next { s with host := q } : Host.Outcome State Fault Refusal) = .next { s with host := r } := by rw [h]

/-- A frame in progress that is broken off is counted on the host line (R141, R166). -/
theorem HostLine.rxEffect_brokenOff (q : HostLine) (r : Receiver) (l : LinePhase) :
    ({ q with rx := r, line := l } : HostLine).rxEffect q.rx.brokenOff =
      { q with rx := r, line := l, discarded := q.discardedAfter } := by
  unfold Receiver.brokenOff HostLine.discardedAfter
  split <;> rfl

/-- A character on a high line is taken by the receiver (R141, R166). -/
theorem HostLine.char_taken (high : q.line = .high) (c : RxChar) : q.char c =
    ({ q with rx := (q.rx.char c).1, line := if c.stopHigh then .high else .low } : HostLine).rxEffect (q.rx.char c).2 :=
  if_neg (not_not_intro high)

theorem HostLine.char_of_low (high : q.line = .high) (stop : c.stopHigh = false) :
    q.char c = { q with rx := .hunt, line := .low, discarded := q.discardedAfter } := by
  rw [HostLine.char_taken high, Receiver.char_of_low stop, stop]
  exact q.rxEffect_brokenOff _ _

theorem HostLine.char_of_high (high : q.line = .high) (stop : c.stopHigh = true) :
    q.char c = ({ q with rx := (q.rx.char c).1 } : HostLine).rxEffect (q.rx.char c).2 := by
  rw [HostLine.char_taken high, stop, if_pos rfl, ← high]

theorem HostLine.char_of_mark (high : q.line = .high) (stop : c.stopHigh = true) (mark : c.mark = true) :
    q.char c = { q with rx := .length c.value, discarded := q.discardedAfter } := by
  rw [HostLine.char_of_high high stop, Receiver.char_of_mark stop mark]
  exact q.rxEffect_brokenOff _ _

theorem HostLine.char_of_unmarked (high : q.line = .high) (stop : c.stopHigh = true) (mark : c.mark = false) :
    q.char c = ({ q with rx := (q.rx.unmarked c.value).1 } : HostLine).rxEffect (q.rx.unmarked c.value).2 := by
  rw [HostLine.char_of_high high stop, Receiver.char_of_unmarked stop mark]

theorem HostLine.char_ignored (low : q.line ≠ .high) (c : RxChar) : q.char c = q := if_pos low

theorem HostLine.chars_ignored (low : q.line ≠ .high) (cs : List RxChar) : cs.foldl HostLine.char q = q := by
  induction cs with
  | nil => rfl
  | cons c cs ih => rw [List.foldl_cons, HostLine.char_ignored low, ih]

/-! ### Breaks (R143, R144) -/

theorem HostLine.shortBreak_taking (h : q.line = .high ∨ q.line = .low) :
    q.shortBreak = { q with rx := .hunt, line := .shortTaken, discarded := q.discardedAfter } := by
  have counted : (if q.rx.busy = true then bump q.discarded else q.discarded) = q.discardedAfter := by
    unfold HostLine.discardedAfter
    cases q.rx <;> rfl
  unfold HostLine.shortBreak
  rw [counted]
  rcases h with h | h <;> rw [h]

theorem HostLine.shortBreak_taken (h : q.line = .shortTaken ∨ q.line = .longTaken) : q.shortBreak = q := by
  unfold HostLine.shortBreak
  rcases h with h | h <;> rw [h]

/-- Settles O19: by the stop bit, the mark, and the receiver's state; and by the line's phase. -/
theorem hostReceiverAndBreaks : Obligations.HostReceiverAndBreaks := by
  refine ⟨fun s c high => ⟨rfl, nextHost_congr ?_⟩, fun s h => nextHost_congr (HostLine.shortBreak_taking h),
    fun s h => nextHost_congr (HostLine.shortBreak_taken h),
    fun s cs low => ⟨nextHost_congr (HostLine.chars_ignored low cs), fun c => nextHost_congr (HostLine.char_ignored low c)⟩,
    fun s => rfl⟩
  by_cases stop : c.stopHigh = false
  · rw [if_pos stop, HostLine.char_of_low high stop]
  rw [if_neg stop]
  have stop := Bool.of_not_eq_false stop
  by_cases mark : c.mark = true
  · rw [if_pos mark, HostLine.char_of_mark high stop mark]
  rw [if_neg mark, HostLine.char_of_unmarked high stop (Bool.eq_false_of_not_eq_true mark)]
  cases rx : s.host.rx with
  | hunt => exact congrArg (fun r => { s.host with rx := r }) rx.symm
  | length k =>
    dsimp only [Receiver.unmarked]
    split
    · rfl
    · split <;> rfl
  | payload k n got =>
    dsimp only [Receiver.unmarked]
    rw [List.length_append, List.length_singleton]
    split <;> rfl
  | check k got =>
    dsimp only [Receiver.unmarked]
    rw [frameCheck]
    split <;> rfl

/-- The 22nd low bit-time breaks off the frame in progress (R143). -/
theorem State.shortBreak_taking (h : (s.port p).line = .high ∨ (s.port p).line = .low) : s.shortBreak p =
    s.withPort p fun q => { q with rx := .hunt, line := .shortTaken, discarded := q.discardedAfter } := by
  have counted : ∀ t : State, (if (s.port p).rx.busy = true then t.countDiscard p else t) =
      t.rxEffect p (s.port p).rx.brokenOff := fun t => by
    rw [← Receiver.brokenOff_eq]
    split <;> rfl
  rw [← s.rxEffect_brokenOff p (f := fun q => { q with rx := .hunt, line := .shortTaken }) rfl, ← counted]
  unfold State.shortBreak
  rcases h with h | h <;> dsimp only <;> rw [h]

theorem State.shortBreak_taken (h : (s.port p).line = .shortTaken ∨ (s.port p).line = .longTaken) :
    s.shortBreak p = s := by
  unfold State.shortBreak
  rcases h with h | h <;> dsimp only <;> rw [h]

theorem State.longBreak_taken (h : (s.port p).line = .longTaken) : s.longBreak p = s := if_pos h

/-- The 200th low bit-time after the 22nd: a loss on an UP port, the line's phase alone on another (R144). -/
theorem State.longBreak_taking (h : (s.port p).line = .shortTaken) : s.longBreak p =
    if (s.port p).session = .up then (s.withPort p fun q => { q with line := .longTaken }).lose p .brk
    else s.withPort p fun q => { q with line := .longTaken } := by
  unfold State.longBreak
  rw [if_neg (by rw [h]; decide), State.shortBreak_taken (.inl h)]
  dsimp only
  rw [State.port_withPort_self]

/-- A long break takes the effect of the short break it contains first (R144; log 12). -/
theorem State.longBreak_of_shortBreak (h : (s.port p).line = .high ∨ (s.port p).line = .low) :
    s.longBreak p = (s.shortBreak p).longBreak p := by
  have phase : ((s.shortBreak p).port p).line = .shortTaken := by
    rw [State.shortBreak_taking h, State.port_withPort_self]
  have first : (s.port p).line ≠ .longTaken := by rcases h with h | h <;> rw [h] <;> decide
  rw [State.longBreak_taking phase]
  unfold State.longBreak
  rw [if_neg first]
  dsimp only
  rw [State.port_withPort_self]

/-- Settles O20: by the phase of the line and the session. -/
theorem breaksClearTheReceiverAndResetTheLink : Obligations.BreaksClearTheReceiverAndResetTheLink := by
  refine ⟨fun s p => ⟨fun h up => congrArg Host.Outcome.next ?_, fun h up => congrArg Host.Outcome.next ?_,
      fun h => congrArg Host.Outcome.next (State.longBreak_taken h), fun h => congrArg Host.Outcome.next ?_⟩,
    fun s p h => congrArg Host.Outcome.next (State.shortBreak_taking h),
    fun s p h => congrArg Host.Outcome.next (State.shortBreak_taken h),
    fun s p cs h => ⟨congrArg Host.Outcome.next (State.headChars_ignored h cs),
      fun c => congrArg Host.Outcome.next (State.headChar_ignored h c)⟩, fun s p => rfl⟩
  · exact (State.longBreak_taking h).trans (if_pos up)
  · exact (State.longBreak_taking h).trans (if_neg up)
  · rw [State.longBreak_of_shortBreak h, State.shortBreak_taking h]

end Sys2Proof.Machine
end

section
/-! PROOFS. The characters of a whole frame, taken one after another on a head line and on the host line (O18). -/
namespace Sys2Proof.Machine

variable {s : State} {p : PortId} {q : HostLine}

/-! ### Characters without an event (R141) -/

/-- The receiver takes the characters, all with a high stop bit, one after another without an event, and comes to the
last state. -/
def Receiver.Reaches : Receiver → List RxChar → Receiver → Prop
  | r, [], last => r = last
  | r, c :: cs, last => c.stopHigh = true ∧ (r.char c).2 = .quiet ∧ Receiver.Reaches (r.char c).1 cs last

/-- Characters that bring no event change the receiver of their port alone. -/
theorem State.headChars_of_reaches {r last : Receiver} {cs : List RxChar} (h : r.Reaches cs last) :
    ∀ {s : State}, (s.port p).session ≠ .disabled → (s.port p).line = .high → (s.port p).rx = r →
      cs.foldl (State.headChar p) s = s.withPort p fun q => { q with rx := last } := by
  induction cs generalizing r with
  | nil =>
    obtain rfl : r = last := h
    exact fun {s} _ _ rx => (s.withPort_id p (congrArg (fun r => { s.port p with rx := r }) rx.symm)).symm
  | cons c cs ih =>
    intro s on high rx
    obtain ⟨stop, quiet, rest⟩ := h
    have taken : State.headChar p s c = s.withPort p fun q => { q with rx := (r.char c).1 } := by
      rw [State.headChar_of_high on high stop, rx, quiet]
      rfl
    rw [List.foldl_cons, taken, ih rest (by rwa [State.port_withPort_self]) (by rwa [State.port_withPort_self])
      (by rw [State.port_withPort_self]), State.withPort_withPort]
    rfl

theorem HostLine.chars_of_reaches {r last : Receiver} {cs : List RxChar} (h : r.Reaches cs last) :
    ∀ {q : HostLine}, q.line = .high → q.rx = r → cs.foldl HostLine.char q = { q with rx := last } := by
  induction cs generalizing r with
  | nil => exact fun _ rx => by rw [← h, ← rx]; rfl
  | cons c cs ih =>
    intro q high rx
    obtain ⟨stop, quiet, rest⟩ := h
    have taken : q.char c = { q with rx := (r.char c).1 } := by
      rw [HostLine.char_of_high high stop, rx, quiet]
      rfl
    rw [List.foldl_cons, taken]
    exact ih rest (q := { q with rx := (r.char c).1 }) high rfl

/-! ### The envelope of a frame (Table 9-4, R141, R142) -/

/-- The characters of a payload, but for those already taken, bring the receiver to CHECK (R141). -/
theorem Receiver.reaches_payload (k : Byte) (n : Nat) : ∀ (bs got : List Byte), bs ≠ [] → got.length + bs.length = n →
    (Receiver.payload k n got).Reaches (bs.map fun b => ⟨b, false, true⟩) (.check k (got ++ bs))
  | [], _, h, _ => (h rfl).elim
  | [b], got, _, len => by
    have full : (got ++ [b]).length = n := by rw [List.length_append]; exact len
    have taken : (Receiver.payload k n got).char ⟨b, false, true⟩ = (.check k (got ++ [b]), .quiet) :=
      (Receiver.char_of_unmarked rfl rfl _).trans (if_pos full)
    exact ⟨rfl, by rw [taken], by rw [taken]; rfl⟩
  | b :: b' :: bs, got, _, len => by
    have part : (got ++ [b]).length ≠ n := by
      simp only [List.length_append, List.length_cons, List.length_nil] at len ⊢
      omega
    have taken : (Receiver.payload k n got).char ⟨b, false, true⟩ = (.payload k n (got ++ [b]), .quiet) :=
      (Receiver.char_of_unmarked rfl rfl _).trans (if_neg part)
    have rest := Receiver.reaches_payload k n (b' :: bs) (got ++ [b]) (List.cons_ne_nil _ _) (by
      simp only [List.length_append, List.length_cons, List.length_nil] at len ⊢
      omega)
    rw [List.append_assoc] at rest
    exact ⟨rfl, by rw [taken], by rw [taken]; exact rest⟩

/-- The length and the payload of a frame bring the receiver from LENGTH to CHECK (R141). -/
theorem Receiver.reaches_check {f : Frame} (fits : f.payload.length ≤ 250) : (Receiver.length f.kind).Reaches
    (⟨BitVec.ofNat 8 f.payload.length, false, true⟩ :: f.payload.map fun b => ⟨b, false, true⟩)
    (.check f.kind f.payload) := by
  obtain ⟨k, bs⟩ := f
  dsimp only at fits ⊢
  have number : (BitVec.ofNat 8 bs.length).toNat = bs.length := by
    rw [BitVec.toNat_ofNat]
    omega
  cases bs with
  | nil => exact ⟨rfl, rfl, rfl⟩
  | cons b bs =>
    have some : BitVec.ofNat 8 (b :: bs).length ≠ 0 := fun e => by
      rw [e] at number
      cases number
    have taken : (Receiver.length k).char ⟨BitVec.ofNat 8 (b :: bs).length, false, true⟩ =
        (.payload k (b :: bs).length [], .quiet) := by
      rw [Receiver.char_of_unmarked rfl rfl]
      dsimp only [Receiver.unmarked]
      rw [if_neg some, number, if_pos fits]
    exact ⟨rfl, by rw [taken], by
      rw [taken]; exact Receiver.reaches_payload k _ (b :: bs) [] (List.cons_ne_nil _ _) (Nat.zero_add _)⟩

/-- The check of a frame completes it (R142). -/
theorem Receiver.char_frameCheck (f : Frame) : (Receiver.check f.kind f.payload).char
    ⟨frameCheck f.kind f.payload, false, true⟩ = (.hunt, .good f) :=
  (Receiver.char_of_unmarked rfl rfl _).trans (if_pos rfl)

/-- The characters of a whole frame break off the frame in progress and offer theirs (R141, R142). -/
theorem State.headChars_wire {f : Frame} (on : (s.port p).session ≠ .disabled) (high : (s.port p).line = .high)
    (fits : f.payload.length ≤ 250) : f.wire.foldl (State.headChar p) s =
      (s.withPort p fun q => { q with rx := .hunt, discarded := q.discardedAfter }).offer p f := by
  have on' : ∀ g : Port → Port, (g (s.port p)).session = (s.port p).session →
      ((s.withPort p g).port p).session ≠ .disabled := fun g e => by rwa [State.port_withPort_self, e]
  have high' : ∀ g : Port → Port, (g (s.port p)).line = (s.port p).line →
      ((s.withPort p g).port p).line = .high := fun g e => by rwa [State.port_withPort_self, e]
  unfold Frame.wire
  rw [List.foldl_append, List.foldl_cons, List.foldl_nil, List.foldl_cons, State.headChar_of_mark on high rfl rfl,
    State.headChars_of_reaches (Receiver.reaches_check fits) (on' _ rfl) (high' _ rfl) (by rw [State.port_withPort_self]),
    State.withPort_withPort, State.headChar_of_high (on' _ rfl) (high' _ rfl) rfl,
    State.port_withPort_self]
  dsimp only [Function.comp]
  rw [Receiver.char_frameCheck, State.withPort_withPort]
  rfl

theorem HostLine.chars_wire {f : Frame} (high : q.line = .high) (fits : f.payload.length ≤ 250) :
    f.wire.foldl HostLine.char q = ({ q with rx := .hunt, discarded := q.discardedAfter } : HostLine).offer f := by
  have body := HostLine.chars_of_reaches (Receiver.reaches_check fits)
    (q := { q with rx := .length f.kind, discarded := q.discardedAfter }) high rfl
  have last := HostLine.char_of_high (q := { q with rx := .check f.kind f.payload, discarded := q.discardedAfter }) high
    (c := ⟨frameCheck f.kind f.payload, false, true⟩) rfl
  rw [Receiver.char_frameCheck] at last
  unfold Frame.wire
  rw [List.foldl_append, List.foldl_cons, List.foldl_nil, List.foldl_cons, HostLine.char_of_mark high rfl rfl, body, last]
  rfl

/-! ### Whole frames (R145, R147, R166) -/

/-- A frame is offered to a port that has just changed, as one change (R145, R147). -/
theorem State.offer_withPort (s : State) (p : PortId) (g : Port → Port) (f : Frame) : (s.withPort p g).offer p f =
    if (g (s.port p)).intake.length < 8 then
      s.withPort p fun q => { g q with
        intake := (g q).intake ++ [f], rdyOut := rdyAfterJoin ((g q).intake.length + 1) (g q).rdyOut }
    else
      let t := s.withPort p fun q => { g q with overruns := bump (g q).overruns, faultReported := true }
      if (g (s.port p)).faultReported = true then t else t.notify (.linkFault p) := by
  unfold State.offer
  rw [State.port_withPort_self, State.withPort_withPort, State.withPort_withPort]
  rfl

/-- Settles O18: by the characters of a frame's envelope, one part after another. -/
theorem wholeFramesReachTheIntake : Obligations.WholeFramesReachTheIntake := by
  refine ⟨fun s p f on high fits => congrArg Host.Outcome.next ?_, fun s f high fits => nextHost_congr ?_⟩
  · rw [State.headChars_wire on high fits, State.offer_withPort]
    rfl
  · exact HostLine.chars_wire high fits

end Sys2Proof.Machine
end

section
/-! PROOFS. The transmitter and the characters it sends (O21). -/
namespace Sys2Proof.Machine

variable {q : Port}

/-! ### The transmitter (R140, R146) -/

theorem Port.beginSend_begins {f : HeadOut} {rest : List HeadOut} (idle : q.sending = none) (waits : q.outbound = f :: rest)
    (ready : q.rdyIn = true) (on : q.session ≠ .disabled) :
    q.beginSend = { q with outbound := rest, sending := some ⟨f, q.settings.divisor⟩ } := by
  unfold Port.beginSend
  rw [idle, waits]
  exact if_pos ⟨ready, on⟩

/-- A transmitter that is not idle, has no frame, no RDY-in or no port, begins none (R140, R146). -/
theorem Port.beginSend_none (h : q.sending.isSome = true ∨ q.outbound = [] ∨ q.rdyIn = false ∨ q.session = .disabled) :
    q.beginSend = q := by
  unfold Port.beginSend
  split
  · next idle waits =>
    refine if_neg fun may => ?_
    rcases h with h | h | h | h
    · rw [idle] at h; cases h
    · rw [waits] at h; cases h
    · rw [h] at may; cases may.1
    · exact may.2 h
  · rfl

theorem Port.finishSend_idle (idle : q.sending = none) (r : Bool) : q.finishSend r = q := by
  unfold Port.finishSend
  rw [idle]

/-- A frame in transmission is finished whatever RDY-in does (R146). -/
theorem Port.finishSend_sending (busy : q.sending.isSome = true) (r : Bool) :
    q.finishSend r = ({ q with sending := none, rdyIn := r } : Port).beginSend := by
  unfold Port.finishSend
  split
  · next idle => rw [idle] at busy; cases busy
  · rfl

/-! ### The characters of a frame (Table 8-3, Table 9-4, Table 9-6, R142, R176) -/

theorem HeadOut.kind_payload (f : HeadOut) : (f.kind, f.payload) =
    match f with
    | .welcome p ms resumed =>
      (0x21, [BitVec.ofNat 8 p.val, BitVec.ofNat 8 (ms / 65536), BitVec.ofNat 8 (ms / 256), BitVec.ofNat 8 ms] ++
        match resumed with | none => [] | some h => [h])
    | .assign h lot n rows columns policy =>
      (0x22, [h] ++ lot ++ [n, BitVec.ofNat 8 (rows / 256), BitVec.ofNat 8 rows, BitVec.ofNat 8 (columns / 256),
        BitVec.ofNat 8 columns, policy.code])
    | .touchAck h tag reason => (0x23, [h, tag, reason.code])
    | .refuse k reason r1 r2 => (0x24, [k, reason.code, r1, r2])
    | .hold h src => (0x25, [h, BitVec.ofNat 8 src.val])
    | .proceed h => (0x26, [h])
    | .cancel h => (0x27, [h]) := by
  cases f with
  | welcome p ms resumed => cases resumed <;> rfl
  | assign h lot n rows columns policy => simp [HeadOut.kind, HeadOut.payload, write2]
  | touchAck | refuse | hold | proceed | cancel => rfl

/-- One bit of the CRC-8 by the bit that leaves (R142). -/
theorem crcShift_eq (c : Byte) : crcShift c = if c.getLsbD 7 = true then (c <<< 1) ^^^ 0x07 else c <<< 1 := by
  unfold crcShift
  rw [BitVec.msb_eq_getLsbD_last]

/-- A character goes into the CRC-8 bit by bit (R142). -/
theorem crc8_concat (cs : List Byte) (c : Byte) : crc8 (cs ++ [c]) =
    (List.range 8).foldl (fun (r : Byte) _ => if r.getLsbD 7 = true then (r <<< 1) ^^^ 0x07 else r <<< 1) (crc8 cs ^^^ c) := by
  have step : (fun (r : Byte) (_ : Nat) => if r.getLsbD 7 = true then (r <<< 1) ^^^ 0x07 else r <<< 1) =
      fun r _ => crcShift r := funext fun r => funext fun _ => (crcShift_eq r).symm
  rw [step, crc8, List.foldl_append]
  rfl

/-- The characters of a frame: only its kind is marked (Table 9-4). -/
theorem Frame.wire_eq (f : Frame) : f.wire = ⟨f.kind, true, true⟩ ::
    (BitVec.ofNat 8 f.payload.length :: (f.payload ++ [crc8 (f.kind :: BitVec.ofNat 8 f.payload.length :: f.payload)])).map
      fun c => ⟨c, false, true⟩ := by
  rw [List.map_cons, List.map_append]
  rfl

/-- Settles O21: by what the transmitter begins and finishes, and the characters of each frame. -/
theorem transmitterSendsInOrder : Obligations.TransmitterSendsInOrder := by
  have sends : ∀ {s : State} {p : PortId} {f g : Port → Port}, f (s.port p) = g (s.port p) →
      (.next (s.withPort p f) : Host.Outcome State Fault Refusal) = .next (s.withPort p g) :=
    fun h => congrArg Host.Outcome.next (State.withPort_congr _ _ h)
  refine ⟨fun s p f rest on waits => ⟨fun idle => sends ?_, fun busy => sends ?_⟩,
    fun s p => ⟨sends ?_, fun busy => sends ?_, fun busy empty => sends ?_⟩, fun s p b h => sends ?_,
    fun s p b idle => congrArg Host.Outcome.next (s.withPort_id p (Port.finishSend_idle idle b)), fun f => ?_,
    Frame.wire_eq, rfl, crc8_concat⟩
  · exact Port.beginSend_begins idle waits rfl on
  · rw [Port.finishSend_sending busy]
    exact Port.beginSend_begins rfl waits rfl on
  · exact Port.beginSend_none (.inr (.inr (.inl rfl)))
  · rw [Port.finishSend_sending busy]
    exact Port.beginSend_none (.inr (.inr (.inl rfl)))
  · rw [Port.finishSend_sending busy]
    exact Port.beginSend_none (.inr (.inl empty))
  · exact Port.beginSend_none (h.imp_right (Or.imp_right .inr))
  · rw [HeadOut.kind_payload]
    cases f with
    | welcome p ms resumed => cases resumed <;> rfl
    | assign h lot n rows columns policy => cases policy <;> rfl
    | touchAck h tag reason => cases reason <;> rfl
    | refuse k reason r1 r2 => cases reason <;> rfl
    | hold | proceed | cancel => rfl

end Sys2Proof.Machine
end

section
/-! PROOFS. The taking of head frames, before their owners judge them and out of turn, and of host commands out of turn
(O22, O23, O24). -/
namespace Sys2Proof.Machine

variable {s : State} {p : PortId} {q : Port} {k : Byte}

/-! ### What taking a frame does (R145, R147, R148, R155) -/

theorem inMask_iff (mask : BitVec 5) (hk : 0x11 ≤ k.toNat) :
    inMask mask k = true ↔ k = 0x11 ∨ mask.getLsbD (k.toNat - 0x12) = true ∧ k ≠ 0x11 := by
  by_cases announce : k = 0x11
  · rw [announce]
    exact iff_of_true rfl (.inl rfl)
  · have above : 0x12 ≤ k.toNat := by
      have : k.toNat ≠ 0x11 := fun e => announce (BitVec.eq_of_toNat_eq e)
      omega
    rw [inMask_of_ne above, or_iff_right announce, and_iff_left announce]

/-- A frame of a head frame kind that is taken, with the reload of the timer (R155). -/
theorem Port.takeFrame_eq (q : Port) (rest : List Frame) (hk : 0x11 ≤ k.toNat) : q.takeFrame k rest =
    { q.taking rest with
      silence :=
        if q.session = .up ∧ (k = 0x11 ∨ q.settings.mask.getLsbD (k.toNat - 0x12) = true ∧ k ≠ 0x11) then
          q.settings.loaded
        else q.silence } := by
  have reload := inMask_iff q.settings.mask hk
  unfold Port.takeFrame
  dsimp only
  by_cases h : q.session = .up ∧ inMask q.settings.mask k = true
  · rw [if_pos h, if_pos ⟨h.1, reload.mp h.2⟩]
    rfl
  · rw [if_neg h, if_neg fun e => h ⟨e.1, reload.mpr e.2⟩]
    rfl

/-- The timer of a port that is not UP is not reloaded (R155). -/
theorem Port.takeFrame_notUp (h : q.session ≠ .up) (k : Byte) (rest : List Frame) : q.takeFrame k rest = q.taking rest := by
  unfold Port.takeFrame
  exact if_neg fun e => h e.1

/-- A frame of no head frame kind is discarded and counted (R148). -/
theorem State.nonHeadFrame_finds {bs : List Byte} {rest : List Frame} (finds : s.HeadFinds p k bs rest)
    (other : ¬(0x11 ≤ k.toNat ∧ k.toNat ≤ 0x16)) : s.nonHeadFrame p =
      s.withPort p fun q => { q.popIntake rest with discarded := bump q.discarded } := by
  unfold State.nonHeadFrame
  rw [State.ready_finds finds]
  exact if_neg (by simpa [isHeadKind] using other)

/-- Settles O22: by what taking does, and by the payload of a BEAT. -/
theorem takingAHeadFrame : Obligations.TakingAHeadFrame := by
  refine ⟨fun l => rfl, fun s p bs rest finds up => congrArg Host.Outcome.next ?_,
    fun s p k bs rest finds other => congrArg Host.Outcome.next (State.nonHeadFrame_finds finds other),
    fun q k rest low _ => q.takeFrame_eq rest low, fun l => rfl⟩
  have reload : (s.port p).takeFrame 0x16 rest = { (s.port p).taking rest with
      silence := if (s.port p).settings.mask.getLsbD 4 = true then (s.port p).settings.loaded else (s.port p).silence } := by
    rw [Port.takeFrame_eq _ rest (by decide)]
    simp [up]
  rw [show s.takeHead p kindBeat (State.beat p) = _ from State.takeHead_up finds up _, State.beat]
  split
  · exact s.withPort_congr p reload
  · refine (s.withPort_withPort p _ _).trans (s.withPort_congr p ?_)
    dsimp only [Function.comp]
    rw [reload]
    rfl

/-! ### Frames before a session (R151) -/

/-- A command that takes a head frame other than ANNOUNCE hands it to one owner (R148; log 13). -/
theorem frameCommands_takeHead {c : Instr} (h : (c, k) ∈ frameCommands p) :
    ∃ owner, ∀ s : State, s.cellsExist = true → exec c s = .next (s.takeHead p k owner) := by
  simp only [frameCommands, List.mem_cons, Prod.mk.injEq, List.not_mem_nil, or_false] at h
  rcases h with ⟨rfl, rfl⟩ | ⟨rfl, rfl⟩ | ⟨rfl, rfl⟩ | ⟨rfl, rfl⟩ | ⟨rfl, rfl⟩
  · exact ⟨_, fun _ _ => rfl⟩
  · exact ⟨_, fun _ _ => rfl⟩
  · exact ⟨_, fun _ exist => State.guardCells_true exist _⟩
  · exact ⟨_, fun _ _ => rfl⟩
  · exact ⟨_, fun _ _ => rfl⟩

/-- Settles O23: whatever the owner, it is not asked. -/
theorem framesBeforeASessionAreRefused : Obligations.FramesBeforeASessionAreRefused := by
  intro s p c k bs rest hc exist finds up
  obtain ⟨owner, takes⟩ := frameCommands_takeHead hc
  refine ⟨?_, fun t exist off => ?_⟩
  · rw [takes s exist, State.takeHead_notUp finds up]
    refine congrArg Host.Outcome.next ((s.withPort_withPort p _ _).trans (s.withPort_congr p ?_))
    dsimp only [Function.comp]
    rw [Port.takeFrame_notUp up]
    rfl
  · rw [takes t exist, State.takeHead_none _ (.inr (.inl off))]

/-! ### Nothing is taken out of turn (R148, R167; log 1) -/

theorem State.takeAnnounce_none (h : 3 ≤ (s.port p).outbound.length ∨ (s.port p).session = .disabled ∨
    ∀ f rest, (s.port p).intake = f :: rest → f.kind ≠ 0x11) : s.takeAnnounce p = s := by
  unfold State.takeAnnounce
  rcases State.ready_none h with none | ⟨f, rest, some, other⟩
  · rw [none]
  · rw [some]
    exact if_neg other

/-- A frame of a head frame kind is none that NON_HEAD_FRAME takes (R148; log 1). -/
theorem State.nonHeadFrame_none (h : 3 ≤ (s.port p).outbound.length ∨ (s.port p).session = .disabled ∨
    ∀ f rest, (s.port p).intake = f :: rest → 0x11 ≤ f.kind.toNat ∧ f.kind.toNat ≤ 0x16) : s.nonHeadFrame p = s := by
  unfold State.nonHeadFrame
  split
  · next f rest ready =>
    obtain ⟨front, on, few⟩ := Port.ready_eq_some ready
    rcases h with h | h | h
    · omega
    · exact absurd h on
    · exact if_pos (by simpa [isHeadKind] using h f rest front)
  · rfl

/-- A host command is taken by its block (R167; log 13). -/
def TakenByBlock (ck : Instr × Byte) : Prop :=
  ∃ run, ∀ s : State, s.cellsExist = true → exec ck.1 s = .next (s.takeHost ck.2 run)

theorem takenByBlock_hostCommands : ∀ ck ∈ hostCommands, TakenByBlock ck := by
  have free : ∀ {c : Instr} {k : Byte} (run), (∀ s, exec c s = .next (s.takeHost k run)) → TakenByBlock (c, k) :=
    fun run takes => ⟨run, fun s _ => takes s⟩
  have guarded : ∀ {c : Instr} {k : Byte} (run), (∀ s, exec c s = s.guardCells (s.takeHost k run)) → TakenByBlock (c, k) :=
    fun run takes => ⟨run, fun s exist => (takes s).trans (State.guardCells_true exist _)⟩
  simp only [hostCommands, List.forall_mem_cons]
  exact ⟨free runQueryPart fun _ => rfl, free runStatus fun _ => rfl, free runHeadSet fun _ => rfl,
    free runHeadStatus fun _ => rfl, free runHeadDrop fun _ => rfl, free runWaferOpen fun _ => rfl,
    guarded runWaferClose fun _ => rfl, guarded runWaferAbandon fun _ => rfl, free runWaferResume fun _ => rfl,
    free runWaferDiscard fun _ => rfl, free runWaferRead fun _ => rfl, guarded runMapRead fun _ => rfl,
    free runAlarmsRead fun _ => rfl, free runLimitsStage fun _ => rfl, free runLimitsRead fun _ => rfl,
    free runHoldRelease fun _ => rfl, free runWaferBins fun _ => rfl, free runBinsSet fun _ => rfl,
    free runBinsRead fun _ => rfl, free runLampSet fun _ => rfl, free runAlertSet fun _ => rfl, free runLotRead fun _ => rfl,
    free runLotEnd fun _ => rfl, free runNoticeFetch fun _ => rfl, free runPageRead fun _ => rfl,
    free runPageWrite fun _ => rfl, free runPageErase fun _ => rfl, free runPartReset fun _ => rfl, List.forall_mem_nil _⟩

theorem State.takeHost_none {run : State → List Byte → Answer}
    (h : s.host.reply.isSome = true ∨ ∀ f rest, s.host.intake = f :: rest → f.kind ≠ k) : s.takeHost k run = s :=
  h.elim (State.takeHost_waiting k run) (State.takeHost_other run)

/-- The codes of Table 9-2 are those of the commands. -/
theorem commandCodes_eq : commandCodes = hostCommands.map Prod.snd := rfl

/-- A frame of a command code is none that UNKNOWN_KIND takes (R168; log 1). -/
theorem State.unknownKind_none (h : s.host.reply.isSome = true ∨
    ∀ f rest, s.host.intake = f :: rest → ∃ c, (c, f.kind) ∈ hostCommands) : s.unknownKind = s := by
  unfold State.unknownKind
  split
  · next f rest none front =>
    rcases h with waits | known
    · rw [none] at waits; cases waits
    · obtain ⟨c, mem⟩ := known f rest front
      refine if_pos (List.contains_iff_mem.mpr ?_)
      rw [commandCodes_eq]
      exact List.mem_map_of_mem mem
  · rfl

/-- Settles O24: no frame and no command is ready, or it is of another kind. -/
theorem nothingIsTakenOutOfTurn : Obligations.NothingIsTakenOutOfTurn := by
  refine ⟨fun s p c k hc exist h => ?_, fun s p h => congrArg Host.Outcome.next (State.nonHeadFrame_none h),
    fun s c k hc exist h => ?_, fun s h => congrArg Host.Outcome.next (State.unknownKind_none h)⟩
  · rcases List.mem_cons.mp hc with announce | hc
    · obtain ⟨rfl, rfl⟩ := Prod.mk.inj announce
      exact congrArg Host.Outcome.next (State.takeAnnounce_none h)
    · obtain ⟨owner, takes⟩ := frameCommands_takeHead hc
      rw [takes s exist, State.takeHead_none owner h]
  · obtain ⟨run, takes⟩ := takenByBlock_hostCommands (c, k) hc
    rw [takes s exist, State.takeHost_none h]

end Sys2Proof.Machine
end

section
/-! PROOFS. HEAD_SET: its checks, and its effect by the session and the change of divisor (O52). -/
namespace Sys2Proof.Machine

/-! ### The checks of HEAD_SET and HEAD_DROP (R160, R161, R164) -/

/-- A port above 3 is refused before anything else is judged (R160). -/
theorem portOf_none {n : Nat} (h : 3 < n) : portOf n = none := dif_neg (by omega)

theorem runHeadSet_noPort {b : Byte} {bs : List Byte} (h : 3 < b.toNat) (len : bs.length = 5) (s : State) :
    runHeadSet s (b :: bs) = s.refuse .badArg := by
  have length : (b :: bs).length = 6 := congrArg (· + 1) len
  have no : portOf (read1 (b :: bs) 0) = none := portOf_none h
  unfold runHeadSet
  rw [if_neg (not_not_intro length), no]

theorem runHeadDrop_noPort {b : Byte} (h : 3 < b.toNat) (s : State) : runHeadDrop s [b] = s.refuse .badArg := by
  have length : [b].length = 1 := rfl
  have no : portOf (read1 [b] 0) = none := portOf_none h
  unfold runHeadDrop
  rw [if_neg (not_not_intro length), no]

/-- A HEAD_SET for a port that exists is judged by its divisor, units and mask (R161). -/
theorem runHeadSet_eq (s : State) (p : PortId) (d1 d0 u n m : Byte) :
    runHeadSet s [BitVec.ofNat 8 p.val, d1, d0, u, n, m] =
      if 4095 < d1.toNat * 256 + d0.toNat ∨ 1 < u.toNat ∨ 31 < m.toNat then s.refuse .badArg
      else (s.headSet p ⟨d1.toNat * 256 + d0.toNat, if u = 0 then .tenMs else .oneS, n,
        BitVec.ofNat 5 m.toNat⟩).settleLamps.accept [] := by
  have port : portOf (read1 [BitVec.ofNat 8 p.val, d1, d0, u, n, m] 0) = some p := by
    rw [show read1 [BitVec.ofNat 8 p.val, d1, d0, u, n, m] 0 = (BitVec.ofNat 8 p.val).toNat from rfl, oneChar (by omega),
      portOf_val]
  have divisor : read2 [BitVec.ofNat 8 p.val, d1, d0, u, n, m] 1 = d1.toNat * 256 + d0.toNat :=
    congrArg (· + d0.toNat) (Nat.mul_comm 256 d1.toNat)
  have units : (if read1 [BitVec.ofNat 8 p.val, d1, d0, u, n, m] 3 = 0 then TimerUnits.tenMs else .oneS) =
      if u = 0 then .tenMs else .oneS := if_congr (BitVec.toNat_inj (y := 0)) rfl rfl
  have length : [BitVec.ofNat 8 p.val, d1, d0, u, n, m].length = 6 := rfl
  unfold runHeadSet
  rw [if_neg (not_not_intro length), port, readSettings, readLine, divisor, units]
  rfl

/-! ### The effect of HEAD_SET (R162) -/

/-- HEAD_SET by the session and the change of divisor, on the port with its settings stored (R162). -/
theorem State.headSet_eq (s : State) (p : PortId) (l : LineSettings) : s.headSet p l =
    let t := s.withPort p fun q => { q with settings := l }
    match (s.port p).session with
    | .up =>
      if l.divisor = 0 then t.lose p .disabled
      else t.withPort p fun q => { q with
        silence := l.loaded, rx := if l.divisor = (s.port p).settings.divisor then q.rx else .hunt }
    | .disabled =>
      if l.divisor = 0 then t
      else t.withPort p fun q => { q with session := .down, rx := .hunt, intake := [], outbound := [], rdyOut := true }
    | _ =>
      if l.divisor = 0 then t.withPort p fun q => { q with
        session := .disabled, rx := .hunt, intake := [], outbound := [], rdyOut := false, sending := none }
      else t.withPort p fun q => { q with rx := if l.divisor = (s.port p).settings.divisor then q.rx else .hunt } := by
  have stored : (s.withPort p fun q => q.storeTimer l).withPort p (fun q => q.storeDivisor l.divisor) =
      s.withPort p fun q => { q with settings := l } := s.withPort_withPort p _ _
  have kept : ∀ {t : State} {f : Port → Port}, f (t.port p) = t.port p → t = t.withPort p f :=
    fun h => (State.withPort_id _ p h).symm
  unfold State.headSet
  dsimp only
  rw [stored]
  cases (s.port p).session with
  | up =>
    dsimp only
    split
    · rfl
    · split
      · rw [s.withPort_withPort, s.withPort_withPort]; rfl
      · rw [s.withPort_withPort, s.withPort_withPort]; rfl
  | disabled => rfl
  | down | lost =>
    dsimp only
    split
    · rfl
    · split
      · exact kept rfl
      · rfl

/-- Settles O52: by the checks of the payload, and the effect of settings in range. -/
theorem headSetActsBySession : Obligations.HeadSetActsBySession := by
  refine ⟨fun s b bs rest high => ⟨fun len finds => congrArg Host.Outcome.next ?_,
      fun finds => congrArg Host.Outcome.next ?_⟩,
    fun s p d1 d0 u n m rest finds => ⟨fun bad => congrArg Host.Outcome.next ?_,
      fun divisor units mask => congrArg Host.Outcome.next ?_⟩⟩
  · exact State.takeHost_answer finds (runHeadSet_noPort high len _)
  · exact State.takeHost_answer finds (runHeadDrop_noPort high _)
  · exact State.takeHost_answer finds ((runHeadSet_eq _ p d1 d0 u n m).trans (if_pos bad))
  · rw [State.takeHost_finds finds, runHeadSet_eq, if_neg (by omega), State.headSet_eq]
    rfl

end Sys2Proof.Machine
end

section
/-! PROOFS. The host line and its commands: the reply's transmission, the refusals by length and by kind, the status
reads, and the notice queue (O46, O47, O51, O60). -/
namespace Sys2Proof.Machine

/-! ### The reply's transmission (R167) -/

section
variable {q : HostLine} {f : Frame}

theorem HostLine.beginReply_waiting (waits : q.reply = some ⟨f, false⟩) (rdyIn : Bool) :
    q.beginReply rdyIn = { q with rdyIn := rdyIn, reply := some ⟨f, rdyIn⟩ } := by
  rw [HostLine.beginReply, waits]
  rfl

/-- Without RDY-in, or without a reply that only waits, nothing begins (R167; log 28). -/
theorem HostLine.beginReply_keeps {rdyIn : Bool} (h : rdyIn = true → ∀ f, q.reply ≠ some ⟨f, false⟩) :
    q.beginReply rdyIn = { q with rdyIn := rdyIn } := by
  unfold HostLine.beginReply
  split
  · next r reply =>
    have sending : (r.sending || rdyIn) = r.sending := by
      cases hs : r.sending with
      | true => rfl
      | false =>
        refine Bool.eq_false_iff.mpr fun on => h on r.frame (reply.trans ?_)
        rw [← hs]
    rw [sending]
    exact congrArg (fun kept => { q with rdyIn := rdyIn, reply := kept }) reply.symm
  · rfl

theorem HostLine.finishReply_sending (sends : q.reply = some ⟨f, true⟩) : q.finishReply = { q with reply := none } := by
  rw [HostLine.finishReply, sends]
  rfl

/-- Where no reply is in transmission, none ends (log 28). -/
theorem HostLine.finishReply_keeps (h : ∀ f, q.reply ≠ some ⟨f, true⟩) : q.finishReply = q := by
  unfold HostLine.finishReply
  split
  · next r reply =>
    refine if_neg fun sends => h r.frame (reply.trans ?_)
    rw [← sends]
  · rfl

end

/-- Settles O46: by whether a reply waits, is in transmission, or is not there. -/
theorem repliesAreSentWhileReady : Obligations.RepliesAreSentWhileReady := by
  intro s f
  have sent : ∀ {e : ReplySend} {q : HostLine}, s.host.send e = q →
      exec (.hostReplySend e) s = .next { s with host := q } := by
    rintro e q rfl
    rfl
  refine ⟨fun waits => ?_, fun sends b => ?_, fun none b => ?_⟩
  · have notSending : ∀ g, s.host.reply ≠ some ⟨g, true⟩ := by simp [waits]
    have on := HostLine.beginReply_waiting waits true
    have off := HostLine.beginReply_keeps (q := s.host) (rdyIn := false) nofun
    exact ⟨sent on, sent off, sent (HostLine.finishReply_keeps notSending),
      sent ((congrArg HostLine.finishReply on).trans (HostLine.finishReply_sending rfl)),
      sent ((congrArg HostLine.finishReply off).trans (HostLine.finishReply_keeps notSending))⟩
  · have begun := HostLine.beginReply_keeps (q := s.host) (rdyIn := b) fun _ g => by simp [sends]
    exact ⟨sent (HostLine.finishReply_sending sends), sent begun,
      sent ((congrArg HostLine.finishReply begun).trans (HostLine.finishReply_sending sends))⟩
  · have noReply : ∀ r, s.host.reply ≠ some r := by simp [none]
    have begun := HostLine.beginReply_keeps (q := s.host) (rdyIn := b) fun _ g => noReply ⟨g, false⟩
    have noEnd : ∀ g, s.host.reply ≠ some ⟨g, true⟩ := fun g => noReply ⟨g, true⟩
    exact ⟨sent (HostLine.finishReply_keeps noEnd), sent begun,
      sent ((congrArg HostLine.finishReply begun).trans (HostLine.finishReply_keeps noEnd))⟩

/-! ### Refusals by length and by kind (R167, R168) -/

theorem runPageWrite_wrongLength {bs : List Byte} (wrong : wrongLength 0x5D bs) (s : State) :
    runPageWrite s bs = s.refuse .badLength := by
  have wrong : bs.length < 22 ∨ bs.length ≠ 22 + 5 * (charAt bs 21).toNat := wrong
  rw [runPageWrite, if_pos]
  rw [← Bool.not_eq_true, imageLengthOk_iff]
  omega

/-- Every host command checks the length of its payload before anything else (R168). At its code, `wrongLength` is the
length of its row of Table 9-2, which is the first check of its block. -/
theorem refusesLength_hostCommands : ∀ ck ∈ hostCommands, RefusesLength ck.1 ck.2 := by
  have free : ∀ {c : Instr} {k : Byte} (run), (∀ s, exec c s = .next (s.takeHost k run)) →
      (∀ s bs, wrongLength k bs → run s bs = s.refuse .badLength) → RefusesLength c k :=
    fun run takes => refusesLength_of fun s _ => takes s
  have guarded : ∀ {c : Instr} {k : Byte} (run), (∀ s, exec c s = s.guardCells (s.takeHost k run)) →
      (∀ s bs, wrongLength k bs → run s bs = s.refuse .badLength) → RefusesLength c k :=
    fun run takes => refusesLength_of fun s exist => (takes s).trans (State.guardCells_true exist _)
  have nonempty : ∀ {bs : List Byte}, bs.length ≠ 0 → bs ≠ [] := fun long empty => long (congrArg List.length empty)
  simp only [hostCommands, List.forall_mem_cons]
  exact ⟨free runQueryPart (fun _ => rfl) fun _ _ wrong => if_pos (nonempty wrong),
    free runStatus (fun _ => rfl) fun _ _ wrong => if_pos (nonempty wrong),
    free runHeadSet (fun _ => rfl) fun _ _ wrong => if_pos wrong,
    free runHeadStatus (fun _ => rfl) fun _ _ wrong => if_pos wrong,
    free runHeadDrop (fun _ => rfl) fun _ _ wrong => if_pos wrong,
    free runWaferOpen (fun _ => rfl) fun _ _ wrong => if_pos wrong,
    guarded runWaferClose (fun _ => rfl) fun _ _ wrong => if_pos wrong,
    guarded runWaferAbandon (fun _ => rfl) fun _ _ wrong => if_pos wrong,
    free runWaferResume (fun _ => rfl) fun _ _ wrong => if_pos wrong,
    free runWaferDiscard (fun _ => rfl) fun _ _ wrong => if_pos wrong,
    free runWaferRead (fun _ => rfl) fun _ _ wrong => if_pos wrong,
    guarded runMapRead (fun _ => rfl) fun _ _ wrong => if_pos wrong,
    free runAlarmsRead (fun _ => rfl) fun _ _ wrong => if_pos wrong,
    free runLimitsStage (fun _ => rfl) fun s _ wrong => runLimitsStage_wrongLength wrong s,
    free runLimitsRead (fun _ => rfl) fun _ _ wrong => if_pos wrong,
    free runHoldRelease (fun _ => rfl) fun _ _ wrong => if_pos wrong,
    free runWaferBins (fun _ => rfl) fun _ _ wrong => if_pos wrong,
    free runBinsSet (fun _ => rfl) fun _ _ wrong => if_pos wrong,
    free runBinsRead (fun _ => rfl) fun _ _ wrong => if_pos (nonempty wrong),
    free runLampSet (fun _ => rfl) fun _ _ wrong => if_pos wrong,
    free runAlertSet (fun _ => rfl) fun _ _ wrong => if_pos wrong,
    free runLotRead (fun _ => rfl) fun _ _ wrong => if_pos wrong,
    free runLotEnd (fun _ => rfl) fun _ _ wrong => if_pos wrong,
    free runNoticeFetch (fun _ => rfl) fun _ _ wrong => if_pos (nonempty wrong),
    free runPageRead (fun _ => rfl) fun _ _ wrong => if_pos wrong,
    free runPageWrite (fun _ => rfl) fun s _ wrong => runPageWrite_wrongLength wrong s,
    free runPageErase (fun _ => rfl) fun _ _ wrong => if_pos wrong,
    free runPartReset (fun _ => rfl) fun _ _ wrong => if_pos (nonempty wrong),
    List.forall_mem_nil _⟩

/-- A frame of no command code is taken and answered UNKNOWN_KIND (R168). -/
theorem State.unknownKind_finds {s : State} {k : Byte} {bs : List Byte} {rest : List Frame}
    (finds : s.HostFinds k bs rest) (unknown : ∀ c, (c, k) ∉ hostCommands) :
    s.unknownKind = (s.popHost rest).compose (unknownReplyKind k) [3] := by
  have noCode : commandCodes.contains k = false := by
    rw [← Bool.not_eq_true, List.contains_iff_mem, commandCodes_eq, List.mem_map]
    rintro ⟨⟨c, _⟩, command, rfl⟩
    exact unknown c command
  obtain ⟨noReply, front⟩ := finds
  rw [State.unknownKind, noReply, front]
  dsimp only
  rw [noCode]
  rfl

/-- Settles O47: by what each command checks first, and the codes UNKNOWN_KIND finds the kind not to be among. -/
theorem refusalsChangeNothing : Obligations.RefusalsChangeNothing :=
  ⟨fun _ _ _ _ => ⟨rfl, rfl⟩, fun c k command => refusesLength_hostCommands (c, k) command,
    fun _ _ _ _ finds unknown => congrArg Host.Outcome.next (State.unknownKind_finds finds unknown)⟩

/-! ### STATUS and HEAD_STATUS (R147, R163, R169) -/

/-- STATUS answers what the collator holds as it is taken, and the host counters are cleared (R169). -/
theorem takeStatus {s : State} {rest : List Frame} (finds : s.HostFinds 0x41 [] rest) : s.takeHost 0x41 runStatus =
    { s with host := { s.host with overruns := 0, discarded := 0 } }.answered rest 0x41 (0 :: s.statusChars) :=
  State.takeHost_finds finds _

/-- The reply of STATUS, port by port and slot by slot (R169). -/
theorem State.statusChars_eq (s : State) : 0 :: s.statusChars =
    0 :: (portIds.flatMap fun p => [(s.port p).session.code, if (s.port p).held = true then 1 else 0]) ++
    [BitVec.ofNat 8 (slotIds.filter fun i => (s.waferAt i).isSome).length] ++
    (slotIds.flatMap fun i => match s.waferAt i with | none => [] | some w => [s.handleOf i, w.state.code]) ++
    write3 s.largestPlaceable ++ [BitVec.ofNat 8 s.notices.length, if s.overflow = true then 1 else 0] ++
    write3 s.host.overruns ++ write3 s.host.discarded ++
    [match s.pageOp with | none => 0xFF | some op => op.job.page.id] := by
  have ports : ((tabList s.ports).flatMap fun q => [q.session.code, flagChar q.held]) =
      portIds.flatMap fun p => [(s.port p).session.code, if (s.port p).held = true then 1 else 0] := by
    rw [tabList_eq_map, portIds_eq, List.flatMap_map]
    rfl
  have slots : s.slotChars =
      slotIds.flatMap fun i => match s.waferAt i with | none => [] | some w => [s.handleOf i, w.state.code] :=
    congrArg (slotIds.flatMap ·) (funext fun i => by cases s.waferAt i <;> rfl)
  have page : s.pageInFlight = match s.pageOp with | none => 0xFF | some op => op.job.page.id := by
    unfold State.pageInFlight
    cases s.pageOp <;> rfl
  rw [State.statusChars, ports, slots, page]
  simp only [List.cons_append, List.append_assoc]
  rfl

/-- The reply of HEAD_STATUS, field by field (R163). -/
theorem Port.statusChars_eq (q : Port) (p : PortId) : 0 :: q.statusChars p =
    [0, BitVec.ofNat 8 p.val, q.session.code, match q.session with | .lost c => c.code | _ => 0] ++
    write4 q.serial.toNat ++ [BitVec.ofNat 8 q.maxSites] ++ write3 (q.silence.getD 0) ++
    write2 q.settings.divisor ++ [q.settings.units.code, q.settings.count, BitVec.ofNat 8 q.settings.mask.toNat] ++
    write3 q.taken ++ write3 q.discarded ++ write3 q.overruns ++
    [if q.faultReported = true then 1 else 0, if q.held = true then 1 else 0, BitVec.ofNat 8 q.touchdowns.length] ++
    q.touchdowns.flatMap fun e => [e.tag, match e.state with | .isOpen => 0 | .isSealed => 1] := by
  have cause : q.session.causeChar = match q.session with | .lost c => c.code | _ => 0 := by cases q.session <;> rfl
  have entries : (q.touchdowns.flatMap fun e => [e.tag, e.state.code]) =
      q.touchdowns.flatMap fun e => [e.tag, match e.state with | .isOpen => 0 | .isSealed => 1] :=
    congrArg (q.touchdowns.flatMap ·) (funext fun e => by cases e.state <;> rfl)
  rw [Port.statusChars, cause, entries]
  simp only [LineSettings.chars, List.cons_append, List.append_assoc]
  rfl

theorem runHeadStatus_noPort {b : Byte} (high : 3 < b.toNat) (s : State) : runHeadStatus s [b] = s.refuse .badArg := by
  have no : portOf (read1 [b] 0) = none := portOf_none high
  rw [runHeadStatus, if_neg (not_not_intro (List.length_singleton (a := b))), no]

theorem runHeadStatus_port (s : State) (p : PortId) : runHeadStatus s [BitVec.ofNat 8 p.val] =
    (s.withPort p Port.clearCounters).accept ((s.port p).statusChars p) := by
  have port : portOf (read1 [BitVec.ofNat 8 p.val] 0) = some p := by
    rw [show read1 [BitVec.ofNat 8 p.val] 0 = (BitVec.ofNat 8 p.val).toNat from rfl, oneChar (by omega), portOf_val]
  rw [runHeadStatus, if_neg (not_not_intro List.length_singleton), port]

/-- HEAD_STATUS answers what the port holds as it is taken, and its counters are cleared (R163). -/
theorem takeHeadStatus {s : State} {p : PortId} {rest : List Frame} (finds : s.HostFinds 0x43 [BitVec.ofNat 8 p.val] rest) :
    s.takeHost 0x43 runHeadStatus =
      (s.withPort p Port.clearCounters).answered rest 0x43 (0 :: (s.port p).statusChars p) := by
  rw [State.takeHost_finds finds, runHeadStatus_port]
  rfl

/-- Settles O51: each reply by its fields, on the state in which the command was taken. -/
theorem statusReadsClearTheirCounters : Obligations.StatusReadsClearTheirCounters := by
  refine ⟨fun x => ?_, fun c => ?_, fun x => ?_, fun u => ?_,
    refusesLength_hostCommands (.status, 0x41) (by decide), refusesLength_hostCommands (.headStatus, 0x43) (by decide),
    fun s rest finds => congrArg Host.Outcome.next ?_,
    fun s b rest finds high => congrArg Host.Outcome.next (State.takeHost_answer finds (runHeadStatus_noPort high _)),
    fun s p rest finds => congrArg Host.Outcome.next ?_⟩
  · cases x <;> rfl
  · cases c <;> rfl
  · cases x <;> rfl
  · cases u <;> rfl
  · exact (takeStatus finds).trans (congrArg (State.answered _ rest 0x41) s.statusChars_eq)
  · exact (takeHeadStatus finds).trans (congrArg (State.answered _ rest 0x43) ((s.port p).statusChars_eq p))

/-! ### Notices (R170, R171, R172, R176) -/

theorem State.notify_room {s : State} (room : s.notices.length < 32) (n : Notice) :
    s.notify n = { s with notices := s.notices ++ [n] } := if_pos room

theorem State.notify_full {s : State} (full : 32 ≤ s.notices.length) (n : Notice) :
    s.notify n = { s with overflow := true } := if_neg (Nat.not_lt.mpr full)

theorem State.alert_iff (s : State) : s.alert = true ↔ s.alertEnable = true ∧ s.notices ≠ [] := by
  simp [State.alert]

/-- NOTICE_FETCH: the flag as it stood, the number that leave, the number that remain, and the records (R171). -/
theorem runNoticeFetch_nil (s : State) : runNoticeFetch s [] =
    { s with notices := s.notices.drop 8, overflow := false }.accept
      ([if s.overflow = true then 1 else 0, BitVec.ofNat 8 (min 8 s.notices.length),
        BitVec.ofNat 8 (s.notices.length - 8)] ++ (s.notices.take 8).flatMap Notice.record) := by
  rw [← List.length_take, ← List.length_drop]
  rfl

/-- Settles O60: by whether the queue has room, and by the kind of the notice for its record. -/
theorem noticesAreQueuedAndFetched : Obligations.NoticesAreQueuedAndFetched := by
  refine ⟨refusesLength_hostCommands (.noticeFetch, 0x5A) (by decide),
    fun s n => ⟨fun room => State.notify_room room n, fun full => State.notify_full full n⟩,
    fun s rest finds => congrArg Host.Outcome.next ?_, State.alert_iff, fun n => ?_⟩
  · rw [State.takeHost_finds finds, runNoticeFetch_nil]
    rfl
  · cases n with
    | headUp p resumed => cases resumed <;> rfl
    | headLost p cause => cases cause <;> rfl
    | linkFault | waferSuspended | holdOn | holdOff => rfl
    | waferClosed p h cause => cases p <;> cases cause <;> rfl
    | alarmRaised p h src l | alarmCleared p h src l => cases p <;> cases l <;> rfl
    | lotLow p h l => cases p <;> rfl
    | pageDone page result => cases result <;> rfl

end Sys2Proof.Machine
end

section
/-! PROOFS. The page store: what a page is judged to be, and how a page operation starts and completes (O42, O43). -/
namespace Sys2Proof.Machine

/-! ### What a page is judged to be (R177) -/

section
variable {α : Type} {contents : List Byte → Option α} {v : PageBytes} {c : α}

theorem PageBytes.eq_erased_iff : v = PageBytes.erased ↔ ∀ k, tabGet v k = .erased := by
  have byte : ∀ k, tabGet PageBytes.erased k = .erased := tabGet_replicate _
  exact ⟨fun e k => e ▸ byte k, fun h => tab_ext fun k => (h k).trans (byte k).symm⟩

theorem PageBytes.tabGet_written (bytes : Vector Byte 256) (k : Fin 256) :
    tabGet (PageBytes.written bytes) k = .value (tabGet bytes k) := tabGet_tabMap _ _ _

theorem PageBytes.eq_written_iff {bytes : Vector Byte 256} :
    v = PageBytes.written bytes ↔ ∀ k, tabGet v k = .value (tabGet bytes k) :=
  ⟨fun e k => e ▸ tabGet_written bytes k, fun h => tab_ext fun k => (h k).trans (tabGet_written bytes k).symm⟩

/-- The values of a page's bytes are all there exactly where the page holds bytes programmed. -/
theorem storedValues_tabList {bs : List Byte} :
    storedValues (tabList v) = some bs ↔ ∃ bytes : Vector Byte 256, v = PageBytes.written bytes ∧ bs = tabList bytes := by
  rw [storedValues_some]
  constructor
  · intro values
    have length : bs.length = 256 := by
      rw [← List.length_map StoredByte.value, ← values, tabList, Array.length_toList, v.size_toArray]
    exact ⟨⟨⟨bs⟩, length⟩, Vector.toArray_inj.mp (Array.toList_inj.mp values), rfl⟩
  · rintro ⟨bytes, rfl, rfl⟩
    exact tabList_written bytes

theorem charAt_tabList (bytes : Vector Byte 256) (k : Fin 256) : charAt (tabList bytes) k.val = tabGet bytes k := by
  simp [charAt, tabList, tabGet]

/-- A page of bytes programmed is judged by its check and by its contents. -/
theorem PageBytes.judge_written (bytes : Vector Byte 256) : (PageBytes.written bytes).judge contents =
    if tabGet bytes 255 = Config.pageCheck ((tabList bytes).take 255) then
      match contents ((tabList bytes).take 255) with
      | some c => .valid c
      | none => .damaged
    else .damaged := by
  have programmed : ¬(tabList (PageBytes.written bytes)).all StoredByte.isErased = true := fun blank => by
    have first := (tabList_all _ _).mp blank 0
    rw [tabGet_written] at first
    cases first
  rw [PageBytes.judge, if_neg programmed, storedValues_tabList.mpr ⟨bytes, rfl, rfl⟩, ← charAt_tabList]
  rfl

/-- A page is VALID exactly where it holds bytes programmed, its check is right and its contents are of its kind. -/
theorem PageBytes.judge_valid : v.judge contents = .valid c ↔
    ∃ bytes : Vector Byte 256, v = PageBytes.written bytes ∧
      tabGet bytes 255 = Config.pageCheck ((tabList bytes).take 255) ∧ contents ((tabList bytes).take 255) = some c := by
  constructor
  · intro valid
    cases values : storedValues (tabList v) with
    | none =>
      rw [PageBytes.judge, values] at valid
      split at valid <;> cases valid
    | some bs =>
      obtain ⟨bytes, rfl, -⟩ := storedValues_tabList.mp values
      rw [PageBytes.judge_written] at valid
      split at valid
      · next check =>
        split at valid
        · next holds =>
          cases valid
          exact ⟨bytes, rfl, check, holds⟩
        · cases valid
      · cases valid
  · rintro ⟨bytes, rfl, check, holds⟩
    rw [PageBytes.judge_written, if_pos check, holds]

theorem Page.isValid_iff {pg : Page α} : pg.isValid = true ↔ ∃ c, pg = .valid c := by
  cases pg <;> simp [Page.isValid]

theorem Page.isBlank_iff {pg : Page α} : pg.isBlank = true ↔ pg = .blank := by
  cases pg <;> simp [Page.isBlank]

end

section
variable {s : State} {pg : StoredPage} {bytes : Vector Byte 256} {rest : List Frame} {id : Byte} {bs : List Byte}
  {prof : Profile}

theorem State.pageBlank_iff : s.pageBlank pg = true ↔ s.pageBytes pg = PageBytes.erased := by
  cases pg <;> exact Page.isBlank_iff.trans (PageBytes.judge_blank _ _)

/-! ### The ids of the pages (Table 10-1) -/

theorem StoredPage.ofId_eq_none {n : Nat} (h : n = 0 ∨ 7 < n) : StoredPage.ofId n = none := by
  unfold StoredPage.ofId
  split
  case h_8 => rfl
  all_goals omega

theorem StoredPage.ofId_isSome {n : Nat} (low : 1 ≤ n) (high : n ≤ 7) : ∃ pg, StoredPage.ofId n = some pg := by
  cases named : StoredPage.ofId n with
  | some pg => exact ⟨pg, rfl⟩
  | none =>
    have zero := StoredPage.ofId_none high named
    omega

/-! ### The start of an operation (R179, R180) -/

/-- A job starts in the same way before and after its command leaves the queue. -/
theorem State.startJob_popHost (s : State) (rest : List Frame) (j : PageJob) (k : Byte) (payload : List Byte) :
    ((s.popHost rest).startJob j).compose (k + 0x80) payload = (s.startJob j).answered rest k payload := by
  unfold State.startJob State.damagePage
  cases j.page <;> rfl

theorem runPageErase_eq (s : State) (id : Byte) : runPageErase s [id] =
    if 7 < id.toNat then s.refuse .badArg
    else
      match StoredPage.ofId id.toNat with
      | none => s.refuse .pageLocked
      | some pg => if s.pageOp.isSome = true then s.refuse .busy else (s.startJob (.erase pg)).accept [id] := rfl

/-- PAGE_ERASE is judged by its id, the page and the operation in flight, and starts a job of 20 ms (R179). -/
theorem takePageErase (finds : s.HostFinds 0x5E [id] rest) : s.takeHost 0x5E runPageErase =
    if 7 < id.toNat then s.answered rest 0x5E [2]
    else
      match StoredPage.ofId id.toNat with
      | none => s.answered rest 0x5E [14]
      | some pg =>
        if s.pageOp.isSome = true then s.answered rest 0x5E [1]
        else (s.startJob (.erase pg)).answered rest 0x5E [0, id] := by
  rw [State.takeHost_finds finds, runPageErase_eq, State.popHost_pageOp]
  split
  · rfl
  · split
    · rfl
    · split
      · rfl
      · exact s.startJob_popHost rest _ 0x5E _

/-- A PAGE_WRITE whose length is right is judged by its id, the page, the profile, the operation in flight and the
page's state (R180). -/
theorem runPageWrite_eq (image : imageLengthOk (id :: bs) = true) (s : State) : runPageWrite s (id :: bs) =
    if 7 < id.toNat then s.refuse .badArg
    else
      match StoredPage.ofId id.toNat with
      | none => s.refuse .pageLocked
      | some pg =>
        if (readProfile (id :: bs) 1).accepted = false then s.refuse .badLimits
        else if s.pageOp.isSome = true then s.refuse .busy
        else if s.pageBlank pg = false then s.refuse .wrongState
        else (s.startJob (s.writeJob pg (readProfile (id :: bs) 1))).accept [id] := by
  rw [runPageWrite, image]
  rfl

/-- What a PAGE_WRITE programs: for page 1 the live settings with the profile carried, else the profile (R180). -/
theorem State.writeJob_eq (s : State) (pg : StoredPage) (prof : Profile) : s.writeJob pg prof =
    match pg with
    | .defaults => .program .defaults (pageImage
        (Defaults.mk s.bins s.lampTable (Vector.ofFn fun p => (s.port p).settings) s.alertEnable prof).chars)
    | .profile i => .program (.profile i) (pageImage prof.image) := by
  cases pg with
  | defaults =>
    have lines : tabMap (·.settings) s.ports = Vector.ofFn fun p => (s.port p).settings :=
      tab_ext fun p => by rw [tabGet_tabMap, tabGet_ofFn]; rfl
    rw [State.writeJob, State.snapshot, lines]
  | profile i => rfl

/-- A PAGE_WRITE with a profile in range starts a job of 8 ms on a BLANK page (R180). -/
theorem takePageWrite (ok : prof.accepted = true) (finds : s.HostFinds 0x5D (id :: prof.image) rest) :
    s.takeHost 0x5D runPageWrite =
      if 7 < id.toNat then s.answered rest 0x5D [2]
      else
        match StoredPage.ofId id.toNat with
        | none => s.answered rest 0x5D [14]
        | some pg =>
          if s.pageOp.isSome = true then s.answered rest 0x5D [1]
          else if s.pageBlank pg = true then (s.startJob (s.writeJob pg prof)).answered rest 0x5D [0, id]
          else s.answered rest 0x5D [5] := by
  rw [State.takeHost_finds finds, runPageWrite_eq (imageLengthOk_cons_image ok id), readProfile_cons_image ok,
    State.popHost_pageOp]
  split
  · rfl
  · split
    · rfl
    · next pg _ =>
      have state : (s.popHost rest).pageBlank pg = s.pageBlank pg := by cases pg <;> rfl
      have job : (s.popHost rest).writeJob pg prof = s.writeJob pg prof := by cases pg <;> rfl
      rw [if_neg (by simp [ok]), state, job]
      split
      · rfl
      · cases s.pageBlank pg with
        | true => exact s.startJob_popHost rest _ 0x5D _
        | false => rfl

theorem runPageWrite_badId (image : imageLengthOk (id :: bs) = true) (high : 7 < id.toNat) (s : State) :
    runPageWrite s (id :: bs) = s.refuse .badArg := by
  rw [runPageWrite_eq image, if_pos high]

theorem runPageWrite_page0 (image : imageLengthOk (0 :: bs) = true) (s : State) :
    runPageWrite s (0 :: bs) = s.refuse .pageLocked := runPageWrite_eq image s

theorem runPageWrite_badLimits (image : imageLengthOk (id :: bs) = true) (low : 1 ≤ id.toNat) (high : id.toNat ≤ 7)
    (bad : (readProfile (id :: bs) 1).accepted = false) (s : State) :
    runPageWrite s (id :: bs) = s.refuse .badLimits := by
  obtain ⟨pg, page⟩ := StoredPage.ofId_isSome low high
  rw [runPageWrite_eq image, if_neg (Nat.not_lt.mpr high), page]
  exact if_pos bad

/-- Settles O42: by the checks of each command in order, and the job it starts on the page its id names. -/
theorem pageOperationsStart : Obligations.PageOperationsStart := by
  refine ⟨refusesLength_hostCommands (.pageErase, 0x5E) (by decide),
    refusesLength_hostCommands (.pageWrite, 0x5D) (by decide),
    fun s id rest finds => congrArg Host.Outcome.next (takePageErase finds),
    fun s id prof rest ok finds => congrArg Host.Outcome.next ((takePageWrite ok finds).trans ?_),
    fun s id bs rest finds image => ⟨fun high => ?_, fun zero => ?_, fun low high bad => ?_⟩⟩
  · refine if_congr Iff.rfl rfl ?_
    rcases StoredPage.ofId id.toNat with _ | pg
    · rfl
    · refine if_congr Iff.rfl rfl ?_
      rw [State.writeJob_eq]
      cases pg <;> exact if_congr Page.isBlank_iff rfl rfl
  · exact congrArg Host.Outcome.next (State.takeHost_answer finds (runPageWrite_badId image high _))
  · subst zero
    exact congrArg Host.Outcome.next (State.takeHost_answer finds (runPageWrite_page0 image _))
  · exact congrArg Host.Outcome.next (State.takeHost_answer finds (runPageWrite_badLimits image low high bad _))

/-! ### The completion of an operation (R181) -/

/-- What the operation due leaves: its page with its bytes or with none, and the notice of its verify (R181; log 4). -/
theorem State.pageDone_due {j : PageJob} (due : s.pageOp = some ⟨j, 0⟩) (stored : Bool) : s.pageDone stored =
    let t := s.setPage j.page (if stored then j.target else PageBytes.lost)
    { t with pageOp := none }.notify (.pageDone j.page.id (j.result (t.verifies j))) := by
  rw [State.pageDone, due]
  rfl

/-- Without an operation in flight that is due, nothing completes (log 3). -/
theorem State.pageDone_early (early : ∀ op ∈ s.pageOp, op.remaining ≠ 0) (stored : Bool) : s.pageDone stored = s := by
  unfold State.pageDone
  split
  · rfl
  · next op flight => exact if_neg (early op flight)

theorem State.pageBytes_setPage_self (s : State) (pg : StoredPage) (v : PageBytes) :
    (s.setPage pg v).pageBytes pg = v := by
  rw [State.setPage_pageBytes, if_pos rfl]

theorem State.verifies_erased (s : State) (pg : StoredPage) : (s.setPage pg PageBytes.erased).verifies (.erase pg) = true :=
  State.pageBlank_iff.mpr (s.pageBytes_setPage_self pg _)

/-- A page that holds the bytes programmed passes its verify exactly where it is VALID (R181). -/
theorem State.verifies_written (s : State) (pg : StoredPage) (bytes : Vector Byte 256) :
    (s.setPage pg (PageBytes.written bytes)).verifies (.program pg bytes) =
      (s.setPage pg (PageBytes.written bytes)).pageValid pg := by
  rw [State.verifies, State.pageBytes_setPage_self, beq_self_eq_true, Bool.true_and]

/-- A verify passes only on what the job was to leave (R181). -/
theorem State.pageBytes_of_verifies {j : PageJob} (passed : s.verifies j = true) : s.pageBytes j.page = j.target := by
  cases j with
  | erase pg => exact State.pageBlank_iff.mp passed
  | program pg bytes => exact eq_of_beq (Bool.and_eq_true_iff.mp passed).1

theorem PageJob.target_ne_lost (j : PageJob) : j.target ≠ PageBytes.lost := fun e => by
  have first : tabGet j.target 0 = .lost := by rw [e, PageBytes.lost, tabGet_replicate]
  cases j with
  | erase pg => cases (PageBytes.eq_erased_iff.mp rfl 0).symm.trans first
  | program pg bytes => cases (PageBytes.tabGet_written bytes 0).symm.trans first

theorem State.verifies_lost (s : State) (j : PageJob) : (s.setPage j.page PageBytes.lost).verifies j = false :=
  Bool.eq_false_iff.mpr fun passed =>
    j.target_ne_lost ((State.pageBytes_of_verifies passed).symm.trans (s.pageBytes_setPage_self _ _))

theorem State.pageDone_erase (due : s.pageOp = some ⟨.erase pg, 0⟩) : s.pageDone true =
    { s.setPage pg PageBytes.erased with pageOp := none }.notify (.pageDone pg.id .erased) := by
  have verified := s.verifies_erased pg
  rw [State.pageDone_due due]
  exact congrArg (fun b => State.notify _ (.pageDone pg.id (PageJob.result (.erase pg) b))) verified

theorem State.pageDone_program (due : s.pageOp = some ⟨.program pg bytes, 0⟩) : s.pageDone true =
    let t := { s.setPage pg (PageBytes.written bytes) with pageOp := none }
    t.notify (.pageDone pg.id (if t.pageValid pg then .written else .failed)) := by
  have same : State.pageValid { s.setPage pg (PageBytes.written bytes) with pageOp := none } pg =
    (s.setPage pg (PageBytes.written bytes)).pageValid pg := by cases pg <;> rfl
  have verified := (s.verifies_written pg bytes).trans same.symm
  rw [State.pageDone_due due]
  exact congrArg (fun b => State.notify _ (.pageDone pg.id (PageJob.result (.program pg bytes) b))) verified

/-- Where the storage fails the page is left without determined bytes, which no verify passes (R181). -/
theorem State.pageDone_failed {j : PageJob} (due : s.pageOp = some ⟨j, 0⟩) : s.pageDone false =
    { s.setPage j.page PageBytes.lost with pageOp := none }.notify (.pageDone j.page.id .failed) := by
  have failed := s.verifies_lost j
  rw [State.pageDone_due due]
  exact congrArg (fun b => State.notify _ (.pageDone j.page.id (j.result b))) failed

/-- Settles O43: by the bytes a page holds, and by what the operation due leaves in it. -/
theorem pageOperationsComplete : Obligations.PageOperationsComplete := by
  refine ⟨fun α contents v => ⟨?_, fun c => ?_⟩, fun cs short => ?_, judge_profileImage,
    fun d ⟨bin0, divisor, profile⟩ => judge_defaultsImage d bin0 divisor profile,
    fun s => ⟨s.identityPage_valid, rfl, rfl, fun _ => rfl⟩,
    fun bytes k => ⟨PageBytes.tabGet_written bytes k, tabGet_replicate _ k, tabGet_replicate _ k⟩,
    fun _ _ _ => ⟨rfl, rfl⟩, ⟨rfl, rfl, fun _ => StoredPage.ofId_eq_none, by decide⟩,
    fun s pg due => congrArg Host.Outcome.next (State.pageDone_erase due),
    fun s bytes => ⟨fun due => congrArg Host.Outcome.next (State.pageDone_program due),
      fun i due => congrArg Host.Outcome.next (State.pageDone_program due)⟩,
    fun s pg bytes due => congrArg Host.Outcome.next (due.elim State.pageDone_failed State.pageDone_failed),
    fun _ _ => Page.isValid_iff,
    fun s b early => congrArg Host.Outcome.next (State.pageDone_early early b)⟩
  · exact (PageBytes.judge_blank contents v).trans PageBytes.eq_erased_iff
  · simp only [PageBytes.judge_valid, PageBytes.eq_written_iff]
  · rw [← pageBody_eq short]
    rfl

end

end Sys2Proof.Machine
end

section
/-! PROOFS. The state after reset keeps every law (O5). -/
namespace Sys2Proof.Machine

section
variable {s : State}

/-- The laws of a state, from the parts in which the steps keep them. -/
theorem State.Tracked.sound (h : s.Tracked) (held : s.HeldBut none) (lamp : s.LampLaw) : s.Sound := by
  obtain ⟨map, block, settings⟩ := s.storeLaw_iff.mp h.store
  obtain ⟨count, alarm, window, counter⟩ := s.books_iff.mp h.books
  have heads := h.lines.heads
  exact
    { map, block, settings, count, alarm, window, counter, lamp
      held := s.heldLaw_iff.mpr held
      binding := heads.binding
      lot := s.lotLaw_iff.mpr h.rosters
      port := h.lines.portLaw
      outbound := s.outboundLaw_iff.mpr heads.queue
      host := s.hostLaw_iff.mpr ⟨h.lines.host, h.lines.notices⟩
      touchdown := s.touchdownLaw_iff.mpr ⟨heads.list, h.lines.front, fun i w hw drains => heads.drain i w hw drains id⟩ }

/-- A power-up or pin reset leaves every law kept: no wafer and no lot, the lines at rest, the lamps derived afresh
(R182). -/
theorem State.StoreLaw.sound_restart (h : s.StoreLaw) (st : Straps) : (s.restart st).Sound := by
  have dark : ∀ l, (Lamps.dark.get l).Law := fun l => by cases l <;> exact LampState.law_start none
  refine State.Tracked.sound
    { lines := s.lines_restart st
      store := (State.KeepsStore.restart s st).law h
      books := s.books_restart st
      rosters := s.rosters_restart st } (State.heldBut_empty (fun i => ?_) fun p => ?_) (State.LampPhases.lampLaw dark)
  · rw [State.waferAt, State.slot_restart]
  · rw [State.port_restart, Port.start_eq]
    rfl

end

/-- At reset no wafer, no cell and no operation is there to judge, and the factory settings are in range (R182). -/
theorem State.storeLaw_reset : State.reset.StoreLaw := by
  have free : ∀ i w, State.reset.waferAt i ≠ some w := fun i w => by
    rw [State.waferAt, show tabGet State.reset.slots i = ⟨0, none⟩ from tabGet_replicate _ i]
    exact nofun
  refine ⟨⟨mapWf_nil, fun _ hc => (List.not_mem_nil hc).elim⟩,
    ⟨fun i w hw => (free i w hw).elim, fun i _ _ v hv => (free i v hv).elim⟩, factoryBins_values.1, fun p => ?_, by decide,
    fun i w hw => (free i w hw).elim, fun op hop => (Option.not_mem_none op hop).elim⟩
  rw [show State.reset.port p = Port.reset from tabGet_replicate _ p]
  exact Nat.zero_le _

/-- The state after reset is what a power-up with both straps low makes of it: page 1 is BLANK, so the factory settings
are loaded (R182; log 7, log 8). -/
theorem State.restart_reset : State.reset.restart ⟨false, false⟩ = State.reset := by
  have blank : State.reset.cutShort.defaultsPage = .blank := PageBytes.judge_erased _
  have ports : tabMap Port.start (Vector.replicate 4 factoryLine) = Vector.replicate 4 Port.reset :=
    tab_ext fun p => by rw [tabGet_tabMap, tabGet_replicate, tabGet_replicate]; rfl
  unfold State.restart
  dsimp only
  rw [blank, loadedDefaults, ports]
  rfl

/-- Settles O5: the state after reset is one a power-up leaves, and every power-up leaves every law kept. -/
theorem resetIsSound : Obligations.ResetIsSound := by
  have sound := State.storeLaw_reset.sound_restart ⟨false, false⟩
  rwa [State.restart_reset] at sound

end Sys2Proof.Machine
end

section
/-! PROOFS. A step with a command waiting (O1). -/
namespace Sys2Proof.Machine

/-- The other half of `step_empty`: a waiting command leaves the queue before its effect is judged (log 17). -/
theorem step_waiting {s : State} {c : Instr} {rest : List Instr} (waiting : s.pending = c :: rest) :
    step s = exec c { s with pending := rest } := by
  unfold step
  split
  · next empty => cases empty.symm.trans waiting
  · next front =>
    obtain ⟨rfl, rfl⟩ := List.cons.inj (front.symm.trans waiting)
    rfl

/-- Settles O1: the state built has the command waiting, and its queue is replaced once more by the rest. -/
theorem stepRunsTheFrontCommand : Obligations.StepRunsTheFrontCommand := fun c rest s =>
  step_waiting (s := { s with pending := c :: rest }) rfl

end Sys2Proof.Machine
end
